-- ==== Sys2Proof/Word.lean ====
section
/-! DEFINITION. The word types of the command-transport block (spec 00_scope.md R6, R8): every value is an
unsigned bit vector whose bits are numbered from 0 at the least significant bit. -/

namespace Sys2Proof

/-- One byte of a descriptor, a register lane or the response buffer. -/
abbrev Byte := BitVec 8

/-- 32 bits: the Control and Data/FIFO registers, a FIFO word, and the host's numeric inputs (R6, D6). -/
abbrev Word := BitVec 32

/-- 64 bits: the Command register and a command descriptor (R6). -/
abbrev DWord := BitVec 64

end Sys2Proof
end

