-- ==== Sys2Proof/Syntax.lean ====
section
/-! DEFINITION. The block's requests, its "instructions" (R2, R90), and the samples of the host's ports that
carry them (R21). -/

namespace Sys2Proof

/-- Operation Flags, the tuple `(len, pre, post, cenc, renc, slow)` (R93). -/
structure OpFlags where
  /-- response length in bytes -/
  len : Word
  /-- pre-delay count -/
  pre : Word
  /-- post-delay count -/
  post : Word
  /-- the command phase is encrypted -/
  cenc : Bool
  /-- the response phase is encrypted -/
  renc : Bool
  /-- the slow clock divider is selected -/
  slow : Bool
  deriving DecidableEq, Repr, Inhabited

/-- The three requests of the opcode table (R90), each with the inputs it reads; every other input of the
request port is don't-care for it (R104). -/
inductive Instr where
  /-- EXECUTE (R150): descriptor, its length as the host presents it, flags -/
  | execute (cmd : DWord) (cmdLen : Word) (f : OpFlags)
  /-- RESET (R180): whether a discard sink is available -/
  | reset (scratchOk : Bool)
  /-- ENCODE (R130): flags -/
  | encode (f : OpFlags)
  deriving DecidableEq, Repr

/-- One sample of the `req_*` operand inputs of the host request port (R21), in that table's order. -/
structure Request where
  op : BitVec 2
  cmd : DWord
  cmdLen : Word
  len : Word
  pre : Word
  post : Word
  cenc : Bool
  renc : Bool
  slow : Bool
  scratchOk : Bool
  deriving DecidableEq, Repr, Inhabited

/-- The flags a request sample carries (R93). -/
abbrev Request.flags (r : Request) : OpFlags := ⟨r.len, r.pre, r.post, r.cenc, r.renc, r.slow⟩

/-- The levels of all the host's inputs in one step (R21): `rst`, `req_valid`, the request, `resp_ready`. -/
structure HostInputs where
  rst : Bool
  reqValid : Bool
  req : Request
  respReady : Bool
  deriving DecidableEq, Repr, Inhabited

end Sys2Proof
end

