-- ==== Sys2Proof/Config.lean ====
section
/-! DEFINITION. What is fixed for the life of the block (R7, R235) and the values the spec leaves open: the open
parameters, the controller's draws (R40), the host's inputs (R21) and the unspecified datapath (R41). Each open
value is an opaque constant, so that no proof can see what it is. -/

namespace Sys2Proof

/-- The open parameters (R7): `BUS_ADDR_W`, the three register addresses (R61), and the reset sequence's
descriptor and flags other than its length (R182, R183). -/
structure Params where
  busAddrW : Nat
  cmdAddr : Nat
  ctrlAddr : Nat
  dataAddr : Nat
  resetCmd : DWord
  resetPre : BitVec 13
  resetPost : BitVec 6
  resetCenc : Bool
  resetRenc : Bool
  resetSlow : Bool
  deriving DecidableEq, Repr, Inhabited

/-- One access of the bus master port, with its address and value (R24, R215). A Command register write is one
8-byte access (R65); the other accesses are 4 bytes wide. -/
inductive BusAccess where
  /-- `MemWrite(addr, 8, v)` -/
  | write8 (addr : Nat) (v : DWord)
  /-- `MemWrite(addr, 4, v)` -/
  | write4 (addr : Nat) (v : Word)
  /-- `MemRead(addr, 4)` that returned `v` -/
  | read4 (addr : Nat) (v : Word)
  deriving DecidableEq, Repr

/-- `BufWrite(off, w)`: the buffer write port's outputs in a step with `buf_we = 1` (R23). -/
structure BufWrite where
  off : BitVec 15
  data : Word
  deriving DecidableEq, Repr

/-- What a model records (R70, R215, D34): the bus accesses and the buffer writes, in order. -/
inductive Event where
  | bus (a : BusAccess)
  | buf (w : BufWrite)
  deriving DecidableEq, Repr

/-- The register `sink` (R29): CALLER = 0, SCRATCH = 1. -/
inductive Sink where
  | caller
  | scratch
  deriving DecidableEq, Repr, Inhabited

/-- The datapath registers `cmd_q`, `ctrl_q`, `len_q` (R26), `cursor` (R27) and `sink` (R29). -/
structure Datapath where
  cmd : DWord
  ctrl : Word
  len : BitVec 15
  cursor : BitVec 15
  sink : Sink
  deriving DecidableEq, Repr, Inhabited

/-- The open parameters of this block (R7, R61, R182, R183). DESIGN CHOICE, entry 1. Safe. -/
opaque Config.params : Params

/-- The word a Control read returns (R40a): a function of the step's number and of every access before it (R40d).
DESIGN CHOICE, entry 3. Safe. -/
opaque Config.statusDraw : Nat → List Event → Word

/-- The word a Data/FIFO read returns (R40b). DESIGN CHOICE, entry 3. Safe. -/
opaque Config.dataDraw : Nat → List Event → Word

/-- The host's port levels in a step whose levels no script gives (R21). DESIGN CHOICE, entry 5. Safe. -/
opaque Config.hostDraw : Nat → HostInputs

/-- What a read of the datapath registers gives while they are absent (R41); no run makes such a read (R31).
DESIGN CHOICE, entry 7. Safe. -/
opaque Config.unspecifiedDatapath : Nat → Datapath

end Sys2Proof
end

