-- ==== Sys2Proof/Decode.lean ====
section
/-! DEFINITION. From the bits of the request port to a request (R90, R102, R103), total, rejecting by name; and the
encoder back. A request word is the operand inputs of R21 side by side in that table's order, `req_op` in
bits 1:0 as spec/opcode_table.json numbers it. DESIGN CHOICE (the order of the bits above 1:0), entry 9. Safe. -/

namespace Sys2Proof

/-- Width of a request word: 2 + 64 + 4 × 32 + 4 bits (R21). -/
abbrev requestBits : Nat := 198

/-- Why a request word is no request of the table. -/
inductive DecodeError where
  /-- `req_op = 11` (R102a); the block answers it InvalidArgument. Safe. -/
  | reservedOp
  deriving DecidableEq, Repr

/-- The port sample whose bits are `b`. -/
def Request.ofBits (b : BitVec requestBits) : Request where
  op := b.extractLsb' 0 2
  cmd := b.extractLsb' 2 64
  cmdLen := b.extractLsb' 66 32
  len := b.extractLsb' 98 32
  pre := b.extractLsb' 130 32
  post := b.extractLsb' 162 32
  cenc := b.getLsbD 194
  renc := b.getLsbD 195
  slow := b.getLsbD 196
  scratchOk := b.getLsbD 197

/-- The bits of a port sample, `req_op` least significant. -/
def Request.bits (r : Request) : BitVec requestBits :=
  BitVec.ofBool r.scratchOk ++ BitVec.ofBool r.slow ++ BitVec.ofBool r.renc ++ BitVec.ofBool r.cenc ++
    r.post ++ r.pre ++ r.len ++ r.cmdLen ++ r.cmd ++ r.op

/-- `req_op` selects the request (R90); it reads its own inputs and no other (R104). -/
def decodeRequest (r : Request) : Except DecodeError Instr :=
  match r.op.toNat with
  | 0 => .ok (.execute r.cmd r.cmdLen r.flags)
  | 1 => .ok (.reset r.scratchOk)
  | 2 => .ok (.encode r.flags)
  | _ => .error .reservedOp

/-- The decoder on the bits of the request port. -/
def decode (b : BitVec requestBits) : Except DecodeError Instr :=
  decodeRequest (Request.ofBits b)

/-- A port sample that offers `i`, with every don't-care input 0 (R90, R104). -/
def Instr.request : Instr → Request
  | .execute cmd cmdLen f => ⟨0#2, cmd, cmdLen, f.len, f.pre, f.post, f.cenc, f.renc, f.slow, false⟩
  | .reset scratchOk => ⟨1#2, 0, 0, 0, 0, 0, false, false, false, scratchOk⟩
  | .encode f => ⟨2#2, 0, 0, f.len, f.pre, f.post, f.cenc, f.renc, f.slow, false⟩

/-- The encoder: the request word of `i`. -/
def encode (i : Instr) : BitVec requestBits := i.request.bits

/-- The request word whose low `nbits` bits are those of `w` and whose other bits are 0. -/
def tableWord (nbits w : Nat) : BitVec requestBits := BitVec.ofNat requestBits (w % 2 ^ nbits)

/-- What the decoder reads from an opcode-table word. -/
def decodeTableWord (nbits w : Nat) : Option Instr :=
  (decode (tableWord nbits w)).toOption

end Sys2Proof
end

