-- ==== Sys2Proof/Machine/Operands.lean ====
section
/-! DEFINITION. The operand forms of a request: response lengths (R94, R95), the block-size map (R98, R99), and the
bytes of a descriptor or a register (R62, R63, R91). -/

namespace Sys2Proof.Machine

/-- The block-size table of R98: each valid response length with its 3-bit code (90_conflicts.md C1). -/
def blockSizes : List (Word × BitVec 3) :=
  [(0#32, 0#3), (0x200#32, 1#3), (0x400#32, 2#3), (0x800#32, 3#3),
   (0x1000#32, 4#3), (0x2000#32, 5#3), (0x4000#32, 6#3), (4#32, 7#3)]

/-- `BlkSize(n)`, which has a value exactly for the valid lengths (R98). -/
def blkSize (n : Word) : Option (BitVec 3) := blockSizes.lookup n

/-- `ValidLen(n)`: `n` is one of the eight lengths, compared over all 32 bits (R95). -/
def validLen (n : Word) : Bool := (blockSizes.map Prod.fst).contains n

/-- The transferred block length a BLK_SIZE code means (R99). -/
def blockLength (b : BitVec 3) : Nat :=
  match b.toNat with
  | 0 => 0
  | 7 => 4
  | k => 0x100 * 2 ^ k

/-- Byte `k` of a value, `v[8k+7:8k]` (R62). -/
def byteOf {w : Nat} (v : BitVec w) (k : Nat) : Byte := v.extractLsb' (8 * k) 8

/-- The descriptor length EXECUTE accepts (R92). -/
def descriptorLength : Word := 8#32

end Sys2Proof.Machine
end

