-- ==== Sys2Proof/Machine/Flags.lean ====
section
/-! DEFINITION. The operation-flag encoder (R120 to R127), the Control Word (R96, R97), the status bits of a Control
read (R37, R38) and the response status codes (R200). -/

namespace Sys2Proof.Machine

/-- `zext_32(v) << pos`: a field of the Control Word at its position (R96, R120). -/
def fieldAt {w : Nat} (pos : Nat) (v : BitVec w) : Word := v.setWidth 32 <<< pos

/-- `Encode(f)`, in the closed form of R120; it has no value when `ValidLen(f.len)` fails (R121). -/
def encodeFlags (f : OpFlags) : Option Word :=
  (blkSize f.len).map fun b =>
    fieldAt 27 (BitVec.ofBool f.slow) ||| fieldAt 24 b ||| fieldAt 22 (BitVec.ofBool f.cenc) |||
      fieldAt 16 (f.post.extractLsb' 0 6) ||| fieldAt 14 (BitVec.ofBool (f.cenc || f.renc)) |||
      fieldAt 13 (BitVec.ofBool f.renc) ||| fieldAt 0 (f.pre.extractLsb' 0 13)

/-- ACTIVATE (bit 31) and RESET_HIGH (bit 29), which the transport ORs into every Control write (R97, R140). -/
def startBits : Word := 0xA0000000#32

/-- The value `ctrl_q` takes for an encoded `cw` (R140). -/
def controlValue (cw : Word) : Word := cw ||| startBits

/-- The busy bit of a status read (R37). -/
def busyBit (s : Word) : Bool := s.getLsbD 31

/-- The data-ready bit of a status read (R38). -/
def dataReadyBit (s : Word) : Bool := s.getLsbD 23

/-- OK (R200). -/
def statusOk : BitVec 2 := 0#2

/-- The errors the block reports (R201, R202). -/
inductive Error where
  | invalidArgument
  | resourceExhausted
  deriving DecidableEq, Repr

/-- The status code of an error (R200). -/
def errorCode : Error → BitVec 2
  | .invalidArgument => 1#2
  | .resourceExhausted => 2#2

/-- RESET_FLAGS: the reset sequence's length 0x2000 and its open flags (R180, R183). -/
def resetFlags (p : Params) : OpFlags where
  len := 0x2000#32
  pre := p.resetPre.setWidth 32
  post := p.resetPost.setWidth 32
  cenc := p.resetCenc
  renc := p.resetRenc
  slow := p.resetSlow

end Sys2Proof.Machine
end

