-- ==== Sys2Proof/Machine/State.lean ====
section
/-! DEFINITION. The state of the machine as plain data: the block's registers (R25 to R29), its outputs in the last
step (R23, R24), the response buffer, the record of accesses (R215), the parameters (R235), and the scripted parts
of the two external agents (R21, R43). -/

namespace Sys2Proof.Machine

/-- The 3-bit FSM state register `state` (R25). The last two constructors are the values 6 and 7, which no run
reaches (R233). -/
inductive Fsm where
  | idle
  | wrCmd
  | wrCtrl
  | poll
  | drain
  | resp
  | reserved6
  | reserved7
  deriving DecidableEq, Repr

/-- Values an external agent supplies, one a use: the pending ones in order, then the cycle over and over, and
with an empty cycle a free draw (R21, R40). DESIGN CHOICE, entry 4. Safe. -/
structure Feed (α : Type) where
  pending : List α
  cycle : List α
  deriving DecidableEq, Repr

/-- The script of a scripted controller for one request (R43): what its `k`-th Control read and its `j`-th Data/FIFO
read return. -/
structure Script where
  /-- `S` -/
  status : Feed Word
  /-- `D` -/
  fifo : Feed Word
  deriving DecidableEq, Repr

/-- No script: every word is a free draw (R40). -/
def Script.free : Script := ⟨⟨[], []⟩, ⟨[], []⟩⟩

/-- The response buffer's bytes the block has written: (offset, byte) pairs, offsets strictly rising. An unlisted
offset has no value here: the block never wrote it. DESIGN CHOICE, entry 12. Safe. -/
abbrev Memory := List Host.Cell

structure State where
  /-- `state` (R25) -/
  fsm : Fsm
  /-- `cmd_q`, `ctrl_q`, `len_q`, `cursor`, `sink` (R26, R27, R29); none while they hold no value, which R41 has a
  model represent as absent (entry 7) -/
  dp : Option Datapath
  /-- `status_q` (R28) -/
  statusQ : BitVec 2
  /-- `cw_q` (R28) -/
  cwQ : Word
  /-- the buffer write port in the last step; none is `buf_we = 0` (R23) -/
  bufOut : Option BufWrite
  /-- the bus master port in the last step; none is no access (R24) -/
  busOut : Option BusAccess
  /-- the response buffer (R60b, R68) -/
  buffer : Memory
  /-- every access and buffer write so far, oldest first (R70, R215) -/
  trace : List Event
  /-- the open parameters, constant for the life of the block (R235) -/
  params : Params
  /-- the host's port levels in the coming steps (R21) -/
  host : Feed HostInputs
  /-- `S` and `D` of the request in progress (R43) -/
  script : Script
  /-- the scripts of the requests still to be accepted, one each (entry 4) -/
  scripts : Feed Script
  /-- the Control reads of the request so far, the `k` of R43 -/
  statusReads : Nat
  /-- the Data/FIFO reads of the request so far, the `j` of R43 -/
  fifoReads : Nat
  /-- the number of steps so far, the model's own counter for free draws (entry 6) -/
  ticks : Nat
  deriving DecidableEq, Repr

/-- Why the machine stops with a fault. -/
inductive Fault where
  /-- `state` is 6 or 7: raised by any step of the block but a reset (R233). Safe: no run reaches it. -/
  | unreachableState
  deriving DecidableEq, Repr

/-- Why a step has no meaning. -/
inductive Refusal where
  /-- an instruction without a meaning; no arm raises it. Safe. -/
  | notModelled (mnemonic : String)
  /-- the parameters break R61 or R66: raised by the start of a transaction and by every bus access (R218,
  entry 2). Safe: it errs toward unprovable. -/
  | illegalConfiguration
  deriving DecidableEq, Repr

/-- The machine right after `rst` (R41, R230), with nothing recorded, no script, and the open parameters. The
values of `buffer`, `trace`, `params`, `host`, `script`, `scripts`, `statusReads`, `fifoReads` and `ticks` are DESIGN
CHOICE (entries 12, 14, 1, 5, 4, 6). -/
def State.reset : State where
  fsm := .idle
  dp := none
  statusQ := 0
  cwQ := 0
  bufOut := none
  busOut := none
  buffer := []
  trace := []
  params := Config.params
  host := ⟨[], []⟩
  script := Script.free
  scripts := ⟨[], []⟩
  statusReads := 0
  fifoReads := 0
  ticks := 0

end Sys2Proof.Machine
end

