-- ==== Sys2Proof/Machine/Ops.lean ====
section
/-! DEFINITION. The named operations over the state: feeds, the bus master port (R9, R24), the response buffer (R68),
responding and raising an error (R9, R149), taking the response (R147), reset (R41), and the block's outputs (R22). -/

namespace Sys2Proof.Machine

/-! ### Values of the external agents -/

/-- The next value of a feed, `free` where no script gives one. -/
def feedHead {α : Type} (free : α) : Feed α → α
  | ⟨x :: _, _⟩ => x
  | ⟨[], x :: _⟩ => x
  | ⟨[], []⟩ => free

/-- A feed after one use. -/
def feedTail {α : Type} : Feed α → Feed α
  | ⟨_ :: xs, c⟩ => ⟨xs, c⟩
  | ⟨[], x :: c⟩ => ⟨c, x :: c⟩
  | ⟨[], []⟩ => ⟨[], []⟩

/-- The `k`-th value of a feed, none where no script gives one. -/
def feedNth {α : Type} (f : Feed α) (k : Nat) : Option α :=
  match f.pending[k]? with
  | some x => some x
  | none => f.cycle[(k - f.pending.length) % f.cycle.length]?

/-- The host's port levels in the coming step (R21). -/
def sampleInputs (s : State) : HostInputs := feedHead (Config.hostDraw s.ticks) s.host

/-- The word the coming Control read returns: `S[k]` where the request's script gives it (R43), else a draw (R40a). -/
def statusWord (s : State) : Word :=
  (feedNth s.script.status s.statusReads).getD (Config.statusDraw s.ticks s.trace)

/-- The word the coming Data/FIFO read returns: `D[j]` where the request's script gives it (R43), else a draw (R40b). -/
def fifoWord (s : State) : Word :=
  (feedNth s.script.fifo s.fifoReads).getD (Config.dataDraw s.ticks s.trace)

/-- What the acceptance of a request does to a scripted controller: the request's own script comes into play, and both
counts start at 0 (R43). -/
def loadScript (s : State) : State :=
  { s with
    script := feedHead Script.free s.scripts
    scripts := feedTail s.scripts
    statusReads := 0
    fifoReads := 0 }

/-- What every step does before anything else: the sample of the ports is used up, the step is counted, and no
port output stands yet (R23: `buf_we = 0` unless the step stores a word). -/
def beginStep (s : State) : State :=
  { s with host := feedTail s.host, ticks := s.ticks + 1, bufOut := none, busOut := none }

/-! ### The parameters -/

/-- `[a, a+n)` and `[b, b+m)` share no address. -/
def disjoint (a n b m : Nat) : Bool := a + n ≤ b || b + m ≤ a

/-- The requirements on the register addresses: disjoint (R61), naturally aligned (R66), and every byte of a register
within the bus address width (DEDUCED from R61, entry 2). -/
def paramsLegal (p : Params) : Bool :=
  disjoint p.cmdAddr 8 p.ctrlAddr 4 && disjoint p.cmdAddr 8 p.dataAddr 4 &&
    disjoint p.ctrlAddr 4 p.dataAddr 4 &&
    p.cmdAddr % 8 == 0 && p.ctrlAddr % 4 == 0 && p.dataAddr % 4 == 0 &&
    decide (p.cmdAddr + 8 ≤ 2 ^ p.busAddrW) && decide (p.ctrlAddr + 4 ≤ 2 ^ p.busAddrW) &&
    decide (p.dataAddr + 4 ≤ 2 ^ p.busAddrW)

/-- A configuration that breaks R61 or R66 is refused (R218); `k` is what a legal one does. -/
def requireLegal (s : State) (k : Host.Outcome State Fault Refusal) : Host.Outcome State Fault Refusal :=
  if paramsLegal s.params then k else .refused .illegalConfiguration

/-! ### The bus master port (R24) -/

/-- The address of an access. -/
def accessAddr : BusAccess → Nat
  | .write8 a _ => a
  | .write4 a _ => a
  | .read4 a _ => a

/-- The size of an access in bytes. -/
def accessSize : BusAccess → Nat
  | .write8 .. => 8
  | .write4 .. => 4
  | .read4 .. => 4

/-- The bytes of an access by address, little-endian (R62). -/
def accessLanes : BusAccess → List (Nat × Byte)
  | .write8 a v => (List.range 8).map fun k => (a + k, byteOf v k)
  | .write4 a v => (List.range 4).map fun k => (a + k, byteOf v k)
  | .read4 a v => (List.range 4).map fun k => (a + k, byteOf v k)

/-- One indivisible bus access (R9, R67), put on the port and recorded (R70). -/
def access (a : BusAccess) (s : State) : State :=
  { s with busOut := some a, trace := s.trace ++ [.bus a] }

/-- `MemWrite(CMD_ADDR, 8, v)` (R33, R65). -/
def writeCommand (v : DWord) (s : State) : State := access (.write8 s.params.cmdAddr v) s

/-- `MemWrite(CTRL_ADDR, 4, v)` (R34). -/
def writeControl (v : Word) (s : State) : State := access (.write4 s.params.ctrlAddr v) s

/-- `MemRead(CTRL_ADDR, 4)`, which returns `statusWord s` (R35). -/
def readControl (s : State) : State :=
  { access (.read4 s.params.ctrlAddr (statusWord s)) s with statusReads := s.statusReads + 1 }

/-- `MemRead(DATA_ADDR, 4)`, which returns `fifoWord s` and pops it (R36, R70a). -/
def readFifo (s : State) : State :=
  { access (.read4 s.params.dataAddr (fifoWord s)) s with fifoReads := s.fifoReads + 1 }

/-- What the controller's Command register was last written with: the newest 8-byte write at `CMD_ADDR` in the trace
(R33); none before the first (R42: unspecified). -/
def commandWritten (s : State) : Option DWord :=
  s.trace.reverse.findSome? fun e =>
    match e with
    | .bus (.write8 a v) => if a = s.params.cmdAddr then some v else none
    | _ => none

/-- What the controller's Control register was last written with (R34); none before the first (R42). -/
def controlWritten (s : State) : Option Word :=
  s.trace.reverse.findSome? fun e =>
    match e with
    | .bus (.write4 a v) => if a = s.params.ctrlAddr then some v else none
    | _ => none

/-! ### The response buffer (R68) -/

/-- The byte at an offset; none where the block has written nothing (entry 12). -/
def Memory.read : Memory → Nat → Option Byte
  | [], _ => none
  | (b, v) :: m, a => if b = a then some v else Memory.read m a

/-- The memory with byte `v` at offset `a`, in the same canonical form. -/
def Memory.write : Memory → Nat → Byte → Memory
  | [], a, v => [(a, v)]
  | (b, u) :: m, a, v =>
    if a < b then (a, v) :: (b, u) :: m
    else if a = b then (a, v) :: m
    else (b, u) :: Memory.write m a v

/-- The canonical form: offsets strictly rising. -/
abbrev Memory.wf (m : Memory) : Prop := m.Pairwise fun c d => c.1 < d.1

/-- The word `w` at offset `off`, little-endian: byte `off + k` receives `w[8k+7:8k]` (R68). -/
def bufStore (m : Memory) (off : Nat) (w : Word) : Memory :=
  (((Memory.write m off (byteOf w 0)).write (off + 1) (byteOf w 1)).write (off + 2) (byteOf w 2)).write
    (off + 3) (byteOf w 3)

/-- `BufWrite(off, w)`: the port's outputs, the buffer's bytes, and the record (R23, R68). -/
def bufWrite (off : BitVec 15) (w : Word) (s : State) : State :=
  { s with
    bufOut := some ⟨off, w⟩
    buffer := bufStore s.buffer off.toNat w
    trace := s.trace ++ [.buf ⟨off, w⟩] }

/-! ### The datapath registers -/

/-- The datapath registers as a step reads them: while they are absent (R41) the read, which no run makes (R31),
gives a free value (entry 7). -/
def datapath (s : State) : Datapath := s.dp.getD (Config.unspecifiedDatapath s.ticks)

/-- `cursor <- c`. -/
def setCursor (c : BitVec 15) (s : State) : State :=
  { s with dp := some { datapath s with cursor := c } }

/-- `state <- x`. -/
def setFsm (x : Fsm) (s : State) : State := { s with fsm := x }

/-- The code of an FSM state (R25). -/
def fsmCode : Fsm → BitVec 3
  | .idle => 0#3
  | .wrCmd => 1#3
  | .wrCtrl => 2#3
  | .poll => 3#3
  | .drain => 4#3
  | .resp => 5#3
  | .reserved6 => 6#3
  | .reserved7 => 7#3

/-- The bit of the `sink` register (R29). -/
def sinkCode : Sink → BitVec 1
  | .caller => 0#1
  | .scratch => 1#1

/-! ### Accepting and answering -/

/-- `start(C, F, S)` of R140, with `cw = Encode(F)`. -/
def start (c : DWord) (cw len : Word) (k : Sink) (s : State) : Host.Outcome State Fault Refusal :=
  requireLegal s
    (.next
      { loadScript s with
        fsm := .wrCmd
        dp := some
          { cmd := c, ctrl := controlValue cw, len := len.extractLsb' 0 15, cursor := 0#15, sink := k } })

/-- `respond(st, cw)` (R149). -/
def respond (st : BitVec 2) (cw : Word) (s : State) : State :=
  { s with fsm := .resp, statusQ := st, cwQ := cw }

/-- `raise <Error>` (R9): the one way a request is rejected. It saves nothing but the status (R201, R208). -/
def raise (e : Error) (s : State) : State := respond (errorCode e) 0#32 s

/-- The return from a response: the host takes it and the block is IDLE again (R147, R209). -/
def takeResponse (s : State) : State := setFsm .idle s

/-- What `rst` does to the block in any state (R41, R148). -/
def resetBlock (s : State) : State :=
  { s with fsm := .idle, statusQ := 0#2, cwQ := 0#32, dp := none, bufOut := none, busOut := none }

/-- The acceptance step belongs to IDLE (R140). A request offered in another state has no effect (R159, entry 10);
FSM values 6 and 7 fault (R233). -/
def whenIdle (s : State) (k : Host.Outcome State Fault Refusal) : Host.Outcome State Fault Refusal :=
  match s.fsm with
  | .idle => k
  | .wrCmd => .next s
  | .wrCtrl => .next s
  | .poll => .next s
  | .drain => .next s
  | .resp => .next s
  | .reserved6 => .fault .unreachableState
  | .reserved7 => .fault .unreachableState

/-- The request this step accepts, if it accepts one: `rst = 0`, `state = IDLE` and `req_valid = 1` (R140, R148). -/
def offered (inp : HostInputs) (s : State) : Option Request :=
  if !inp.rst && s.fsm == .idle && inp.reqValid then some inp.req else none

/-- The answer to a request the decoder rejects (R102a, R201d). -/
def rejectRequest (e : DecodeError) (s : State) : Host.Outcome State Fault Refusal :=
  match e with
  | .reservedOp => .next (raise .invalidArgument s)

/-! ### Outputs (R22) -/

/-- `req_ready` -/
def State.reqReady (s : State) : Bool := s.fsm == .idle

/-- `resp_valid` -/
def State.respValid (s : State) : Bool := s.fsm == .resp

/-- `resp_status` -/
def State.respStatus (s : State) : BitVec 2 := s.statusQ

/-- `resp_cw` -/
def State.respCw (s : State) : Word := s.cwQ

/-- The bool of the source's `execute` (R22, R200). -/
def State.executeOk (s : State) : Bool := s.respStatus == statusOk

end Sys2Proof.Machine
end

