-- ==== Sys2Proof/Machine/EncodeRequest.lean ====
section
/-! DEFINITION. The ENCODE request (R130): the Control Word of a set of flags, without touching the registers. -/

namespace Sys2Proof.Machine

/-- ENCODE: `Encode(f)` in one step, or InvalidArgument where it has no value (R121, R130). -/
def execEncode (f : OpFlags) (s : State) : Host.Outcome State Fault Refusal :=
  whenIdle s <|
    match encodeFlags f with
    | some cw => .next (respond statusOk cw s)
    | none => .next (raise .invalidArgument s)

end Sys2Proof.Machine
end

