-- ==== Sys2Proof/Machine/ResetSequence.lean ====
section
/-! DEFINITION. The RESET request (R180 to R186): a fixed transaction whose response is discarded. -/

namespace Sys2Proof.Machine

/-- RESET, its acceptance step (R180): without a discard sink it is ResourceExhausted (R181), else the transaction
starts with RESET_CMD and RESET_FLAGS. `WR_CMD` and the states after it run the rest. -/
def execReset (scratchOk : Bool) (s : State) : Host.Outcome State Fault Refusal :=
  whenIdle s <|
    if scratchOk then
      match encodeFlags (resetFlags s.params) with
      | some cw => start s.params.resetCmd cw (resetFlags s.params).len .scratch s
      | none => .next (raise .invalidArgument s)
    else .next (raise .resourceExhausted s)

end Sys2Proof.Machine
end

