-- ==== Sys2Proof/Machine/Transport.lean ====
section
/-! DEFINITION. EXECUTE (R150, R151) and the steps of the command-transport state machine that EXECUTE and RESET share
(R141 to R148), the FIFO drainer among them. -/

namespace Sys2Proof.Machine

/-- EXECUTE, its acceptance step (R140, R151): a bad descriptor length or response length is InvalidArgument, else
the transaction starts. `WR_CMD` and the states after it run the rest. -/
def execExecute (cmd : DWord) (cmdLen : Word) (f : OpFlags) (s : State) :
    Host.Outcome State Fault Refusal :=
  whenIdle s <|
    if cmdLen = descriptorLength then
      match encodeFlags f with
      | some cw => start cmd cw f.len .caller s
      | none => .next (raise .invalidArgument s)
    else .next (raise .invalidArgument s)

/-- WR_CMD (R142). -/
def wrCmdStep (s : State) : Host.Outcome State Fault Refusal :=
  requireLegal s (.next (setFsm .wrCtrl (writeCommand (datapath s).cmd s)))

/-- WR_CTRL (R143). -/
def wrCtrlStep (s : State) : Host.Outcome State Fault Refusal :=
  requireLegal s (.next (setFsm .poll (writeControl (datapath s).ctrl s)))

/-- What POLL does with the status word `w` it has read (R144): busy is tested first. -/
def pollBranch (w : Word) (s : State) : State :=
  if busyBit w then
    if dataReadyBit w then setFsm .drain s else setFsm .poll s
  else respond statusOk (datapath s).ctrl s

/-- POLL (R144): one status read, then the branch on it. -/
def pollStep (s : State) : Host.Outcome State Fault Refusal :=
  requireLegal s (.next (pollBranch (statusWord s) (readControl s)))

/-- The word of a DRAIN step counts: `cursor < len_q` (R146). -/
def wordFits (d : Datapath) : Bool := d.cursor < d.len

/-- The buffer offset a DRAIN step stores at, if it stores (R146). -/
def drainTarget (s : State) : Option (BitVec 15) :=
  if wordFits (datapath s) then
    match (datapath s).sink with
    | .caller => some (datapath s).cursor
    | .scratch => none
  else none

/-- Store or discard the word `w` (R146): the cursor moves for either sink (D35). -/
def storeOrDiscard (w : Word) (s : State) : State :=
  let stored := match drainTarget s with
    | some off => bufWrite off w s
    | none => s
  if wordFits (datapath s) then setCursor ((datapath s).cursor + 4#15) stored else stored

/-- DRAIN (R145): the FIFO read happens whatever the cursor. -/
def drainStep (s : State) : Host.Outcome State Fault Refusal :=
  requireLegal s (.next (setFsm .poll (storeOrDiscard (fifoWord s) (readFifo s))))

/-- RESP (R147). -/
def respStep (respReady : Bool) (s : State) : Host.Outcome State Fault Refusal :=
  .next (if respReady then takeResponse s else s)

/-- The step of the block when it accepts no request: `rst` wins in every state (R148, R206; entry 8), IDLE waits
(R141), the transaction goes on, and FSM values 6 and 7 fault (R233). -/
def busyStep (inp : HostInputs) (s : State) : Host.Outcome State Fault Refusal :=
  if inp.rst then .next (resetBlock s)
  else
    match s.fsm with
    | .idle => .next s
    | .wrCmd => wrCmdStep s
    | .wrCtrl => wrCtrlStep s
    | .poll => pollStep s
    | .drain => drainStep s
    | .resp => respStep inp.respReady s
    | .reserved6 => .fault .unreachableState
    | .reserved7 => .fault .unreachableState

end Sys2Proof.Machine
end

