-- ==== Sys2Proof/Machine/Dispatch.lean ====
section
/-! DEFINITION. What each request does when it is offered: one arm per constructor of Instr (R90). -/

namespace Sys2Proof.Machine

def exec (i : Instr) (s : State) : Host.Outcome State Fault Refusal :=
  match i with
  | .execute cmd cmdLen f => Sys2Proof.Machine.execExecute cmd cmdLen f s
  | .reset scratchOk => Sys2Proof.Machine.execReset scratchOk s
  | .encode f => Sys2Proof.Machine.execEncode f s

end Sys2Proof.Machine
end

