-- ==== Sys2Proof/Machine/Step.lean ====
section
/-! DEFINITION. One step of the machine (R10): sample the host's ports, then accept the request the step offers or make
the block's own transition. -/

namespace Sys2Proof.Machine

/-- One FSM transition. -/
def step (s : State) : Host.Outcome State Fault Refusal :=
  match offered (sampleInputs s) (beginStep s) with
  | none => busyStep (sampleInputs s) (beginStep s)
  | some r =>
    match decodeRequest r with
    | .ok i => exec i (beginStep s)
    | .error e => rejectRequest e (beginStep s)

/-- `s` in IDLE with the request word of an opcode-table row on its request port in the next step, and `rst = 0`
(entry 11). -/
def State.withFetchWord (s : State) (nbits w : Nat) : State :=
  { s with
    fsm := .idle
    host :=
      { s.host with
        pending := ⟨false, true, Request.ofBits (tableWord nbits w), false⟩ :: s.host.pending } }

end Sys2Proof.Machine
end

