-- ==== Sys2Proof/Machine/Text.lean ====
section
/-! DEFINITION. The text form of requests (R104), read into a sample of the request port. Optional parts stand in the
form's own order, words are separated by spaces, and a number outside its port's width is no request. DESIGN CHOICE,
entry 17. Safe. -/

namespace Sys2Proof.Machine

/-- The pieces of `cs` between the separators `sep`. -/
def splitAtChar (sep : Char) : List Char → List (List Char)
  | [] => [[]]
  | c :: cs =>
    if c = sep then [] :: splitAtChar sep cs
    else
      match splitAtChar sep cs with
      | [] => [[c]]
      | w :: ws => (c :: w) :: ws

/-- The value of a digit of the given base. -/
def digitValue (base : Nat) (c : Char) : Option Nat :=
  let v := if '0' ≤ c ∧ c ≤ '9' then c.toNat - '0'.toNat
    else if 'a' ≤ c ∧ c ≤ 'f' then c.toNat - 'a'.toNat + 10
    else if 'A' ≤ c ∧ c ≤ 'F' then c.toNat - 'A'.toNat + 10
    else base
  if v < base then some v else none

/-- The number whose digits are `cs`, after the digits read into `acc`. -/
def digits (base acc : Nat) : List Char → Option Nat
  | [] => some acc
  | c :: cs => (digitValue base c).bind fun d => digits base (acc * base + d) cs

/-- A decimal or `0x` hexadecimal number of `w` bits. -/
def number (w : Nat) (cs : List Char) : Option (BitVec w) :=
  let value := match cs with
    | [] => none
    | '0' :: 'x' :: c :: rest => digits 16 0 (c :: rest)
    | _ => digits 10 0 cs
  value.bind fun n => if n < 2 ^ w then some (BitVec.ofNat w n) else none

/-- What follows `key=` in a word. -/
def keyed (key : String) (word : List Char) : Option (List Char) :=
  (key.toList ++ ['=']).isPrefixOf? word

/-- An optional `key=<n>` at the head of the words, and the words after it. -/
def optionalNumber (key : String) (default : Word) (ws : List (List Char)) :
    Option (Word × List (List Char)) :=
  match ws with
  | [] => some (default, [])
  | w :: rest =>
    match keyed key w with
    | none => some (default, ws)
    | some cs => (number 32 cs).map fun n => (n, rest)

/-- An optional word at the head of the words: present or not. -/
def optionalWord (key : String) (ws : List (List Char)) : Bool × List (List Char) :=
  match ws with
  | [] => (false, [])
  | w :: rest => if w = key.toList then (true, rest) else (false, ws)

/-- The descriptor `<b0>,…,<b7>`: byte `i` in bits `[8i+7:8i]` (R91). -/
def descriptorOf : List (List Char) → Option DWord
  | [b0, b1, b2, b3, b4, b5, b6, b7] => do
    let c0 ← number 8 b0
    let c1 ← number 8 b1
    let c2 ← number 8 b2
    let c3 ← number 8 b3
    let c4 ← number 8 b4
    let c5 ← number 8 b5
    let c6 ← number 8 b6
    let c7 ← number 8 b7
    some (c7 ++ c6 ++ c5 ++ c4 ++ c3 ++ c2 ++ c1 ++ c0)
  | _ => none

/-- `len=<n> [pre=<n>] [post=<n>] [cenc] [renc] [slow]` and the words after it, with the defaults of R104. -/
def flagsOf (ws : List (List Char)) : Option (OpFlags × List (List Char)) :=
  match ws with
  | [] => none
  | w :: rest => do
    let len ← (keyed "len" w).bind (number 32)
    let (pre, rest) ← optionalNumber "pre" 0#32 rest
    let (post, rest) ← optionalNumber "post" 0#32 rest
    let (cenc, rest) := optionalWord "cenc" rest
    let (renc, rest) := optionalWord "renc" rest
    let (slow, rest) := optionalWord "slow" rest
    some (⟨len, pre, post, cenc, renc, slow⟩, rest)

/-- EXECUTE after its name. -/
def executeOf (ws : List (List Char)) : Option Instr :=
  match ws with
  | [] => none
  | w :: rest => do
    let cmd ← (keyed "cmd" w).bind fun cs => descriptorOf (splitAtChar ',' cs)
    let (f, rest) ← flagsOf rest
    let (cmdLen, rest) ← optionalNumber "cmdlen" descriptorLength rest
    if rest = [] then some (.execute cmd cmdLen f) else none

/-- RESET after its name. -/
def resetOf (ws : List (List Char)) : Option Instr :=
  let (noscratch, rest) := optionalWord "noscratch" ws
  if rest = [] then some (.reset !noscratch) else none

/-- ENCODE after its name. -/
def encodeOf (ws : List (List Char)) : Option Instr :=
  (flagsOf ws).bind fun (f, rest) => if rest = [] then some (.encode f) else none

/-- The request a line of text names (R104). -/
def parseRequest (line : String) : Option Instr :=
  match (splitAtChar ' ' line.toList).filter (· ≠ []) with
  | [] => none
  | w :: ws =>
    if w = "EXECUTE".toList then executeOf ws
    else if w = "RESET".toList then resetOf ws
    else if w = "ENCODE".toList then encodeOf ws
    else none

end Sys2Proof.Machine
end

