-- ==== Sys2Proof/Safety.lean ====
section
/-! DEFINITION. What counts as a sound state of the block, in the terms the statements use: the facts every step keeps;
and the premises a claim names on the agents outside the block (R43, R218). -/

namespace Sys2Proof.Machine

/-- A transaction is in progress: acceptance is past and the response not yet reached. -/
def inTransaction : Fsm → Bool
  | .idle => false
  | .wrCmd => true
  | .wrCtrl => true
  | .poll => true
  | .drain => true
  | .resp => false
  | .reserved6 => false
  | .reserved7 => false

/-- The datapath holds what `start` gave it for some valid flags (R26, R140, R160), its cursor moves in words up to the
length (R27), and a discarding transaction is the reset sequence (R29, R180). -/
structure DatapathOk (p : Params) (d : Datapath) : Prop where
  started : ∃ f cw, encodeFlags f = some cw ∧ d.ctrl = controlValue cw ∧ d.len.setWidth 32 = f.len ∧
    (d.sink = .scratch → f = resetFlags p ∧ d.cmd = p.resetCmd)
  cursor_le_len : d.cursor.toNat ≤ d.len.toNat
  cursor_aligned : d.cursor.toNat % 4 = 0

/-- The invariant of the block. -/
structure State.Inv (s : State) : Prop where
  /-- FSM values 6 and 7 are unreachable (R233) -/
  fsm_legal : s.fsm ≠ .reserved6 ∧ s.fsm ≠ .reserved7
  /-- no step of a transaction reads an absent register (R31) -/
  datapath_present : inTransaction s.fsm = true → s.dp.isSome = true
  /-- a transaction runs only under a legal configuration (R218) -/
  config_legal : inTransaction s.fsm = true → paramsLegal s.params = true
  datapath_ok : ∀ d, s.dp = some d → DatapathOk s.params d
  /-- code 3 is never produced (R200) -/
  status_legal : s.statusQ ≠ 3#2
  /-- a rejected request has no Control Word (R149) -/
  rejected_cw : s.statusQ ≠ statusOk → s.cwQ = 0#32
  /-- both counts of a request start at 0 (R43) -/
  counts_fresh : s.fsm = .wrCmd ∨ s.fsm = .wrCtrl → s.statusReads = 0 ∧ s.fifoReads = 0
  /-- the counting law on the cursor (R157) -/
  cursor_counts : ∀ d, s.dp = some d → d.cursor.toNat = 4 * min s.fifoReads (d.len.toNat / 4)
  /-- the buffer keeps its canonical form -/
  buffer_wf : Memory.wf s.buffer
  /-- no byte at or above the largest length is ever written (R69) -/
  buffer_bound : ∀ c ∈ s.buffer, c.1 < 0x4000

/-! ### Premises on the controller and on the host's ports, over the run from a state -/

/-- A finite sequence as a script: no value past its end. -/
abbrev finiteScript {α : Type} (l : List α) : Nat → Option α := fun k => l[k]?

/-- The scripted controller of R43, in the first `n` steps from `s`: the `k`-th Control read of a request returns `S k`
and its `j`-th Data/FIFO read returns `D j`, for every `k` and `j` at which the finite or infinite sequence has a value.
It is a premise, no property of the hardware: it also says what a free draw (R40) then is. -/
def ScriptedController (n : Nat) (s : State) (S D : Nat → Option Word) : Prop :=
  ∀ k < n, ∀ t : State, core.run k s = .next t →
    (t.fsm = .poll → ∀ w, S t.statusReads = some w → statusWord (beginStep t) = w) ∧
    (t.fsm = .drain → ∀ w, D t.fifoReads = some w → fifoWord (beginStep t) = w)

/-- The host does not assert `rst` in the first `n` steps from `s`. -/
def NoReset (n : Nat) (s : State) : Prop :=
  ∀ k < n, ∀ t : State, core.run k s = .next t → (sampleInputs t).rst = false

/-- No status read of the run from `s` shows busy clear (R156). -/
def BusyNeverClears (s : State) : Prop :=
  ∀ (k : Nat) (t : State), core.run k s = .next t → t.fsm = .poll → busyBit (statusWord (beginStep t)) = true

/-! ### Launch premises: the duties of the host and the platform (R218) -/

/-- What a claim about one request supposes of the agents that have no move in the model. -/
structure Launch where
  /-- the address of the caller's response buffer -/
  bufferBase : Nat
  /-- how many bytes it holds -/
  bufferCapacity : Nat
  /-- the buffer offsets the host reads or writes between acceptance and the response -/
  hostOffsets : List Nat
  /-- the bus accesses of other agents between acceptance and the response -/
  foreign : List BusAccess
  /-- what the Control register shows when the request is accepted -/
  control : Word
  deriving DecidableEq, Repr

/-- The caller's buffer holds at least `len` bytes (R69) and starts on a 4-byte boundary (R66). -/
def Launch.BufferCapacity (l : Launch) (len : Nat) : Prop := len ≤ l.bufferCapacity ∧ l.bufferBase % 4 = 0

/-- The host leaves the buffer to the block (R239). -/
def Launch.BufferLeftAlone (l : Launch) : Prop := l.hostOffsets = []

/-- `a` is the address of a byte of one of the three registers (R61). -/
abbrev registerByte (p : Params) (a : Nat) : Prop :=
  (p.cmdAddr ≤ a ∧ a < p.cmdAddr + 8) ∨ (p.ctrlAddr ≤ a ∧ a < p.ctrlAddr + 4) ∨
    (p.dataAddr ≤ a ∧ a < p.dataAddr + 4)

/-- No other agent touches a register (R78, R237). -/
def Launch.ExclusiveOwnership (l : Launch) (p : Params) : Prop :=
  ∀ a ∈ l.foreign, ∀ b ∈ accessLanes a, ¬registerByte p b.1

/-- The controller is not busy with an earlier transaction (R236). -/
def Launch.IdleController (l : Launch) : Prop := busyBit l.control = false

/-- The launch premises of an EXECUTE with a response of `len` bytes. -/
structure Launch.Premises (l : Launch) (p : Params) (len : Nat) : Prop where
  capacity : l.BufferCapacity len
  leftAlone : l.BufferLeftAlone
  exclusive : l.ExclusiveOwnership p
  idle : l.IdleController

/-! ### What a transaction does under a script -/

/-- A poll round of a scripted controller (R43, R152): a status word with busy set, and the FIFO word the block
reads after it when its data-ready bit is set. -/
inductive Round where
  | wait (status : Word)
  | word (status data : Word)
  deriving DecidableEq, Repr

/-- The status word of a round shows what the round says. -/
def Round.ok : Round → Bool
  | .wait st => busyBit st && !dataReadyBit st
  | .word st _ => busyBit st && dataReadyBit st

/-- `S` of R43: the status words of the rounds in order. -/
def roundStatuses (rs : List Round) : List Word :=
  rs.map fun r =>
    match r with
    | .wait st => st
    | .word st _ => st

/-- `D` of R43: the FIFO words of the rounds in order. -/
def roundWords (rs : List Round) : List Word :=
  rs.filterMap fun r =>
    match r with
    | .wait _ => none
    | .word _ w => some w

/-- The number of steps the rounds take: one poll each, and one drain for each word (R247). -/
def roundSteps (rs : List Round) : Nat := rs.length + (roundWords rs).length

/-- The words a transaction of `len` bytes keeps, the first `len/4` (R146, R157). -/
def keptWords (len : BitVec 15) (ws : List Word) : List Word := ws.take (len.toNat / 4)

/-- The bus accesses of an event record, in order (R215). -/
def busAccesses (es : List Event) : List BusAccess :=
  es.filterMap fun e =>
    match e with
    | .bus a => some a
    | .buf _ => none

/-- The buffer writes of an event record, in order (R215). -/
def bufWrites (es : List Event) : List BufWrite :=
  es.filterMap fun e =>
    match e with
    | .bus _ => none
    | .buf w => some w

/-- The bus accesses of the rounds, in order (R152). -/
def roundAccesses (p : Params) (rs : List Round) : List BusAccess :=
  rs.flatMap fun r =>
    match r with
    | .wait st => [.read4 p.ctrlAddr st]
    | .word st w => [.read4 p.ctrlAddr st, .read4 p.dataAddr w]

/-- The buffer writes that store the words `ws` one behind another from `off` on. -/
def wordWrites (off : Nat) : List Word → List BufWrite
  | [] => []
  | w :: ws => ⟨BitVec.ofNat 15 off, w⟩ :: wordWrites (off + 4) ws

end Sys2Proof.Machine
end

