-- ==== Sys2Proof/WellFormed.lean ====
section
/-! DEFINITION. When a request is well formed: the argument checks of R92 and R95. An ill-formed request is no stop: the
block answers it InvalidArgument (R102b, R102c). -/

namespace Sys2Proof

/-- What a request can get wrong. -/
inductive IllFormed where
  /-- `req_cmd_len ≠ 8` (R92) -/
  | descriptorLength
  /-- `ValidLen(req_len)` fails (R95) -/
  | responseLength
  deriving DecidableEq, Repr

/-- The checks that apply to each request (R206): EXECUTE both, ENCODE the length, RESET none. -/
def Instr.illFormed : Instr → List IllFormed
  | .execute _ cmdLen f =>
    (if cmdLen = Machine.descriptorLength then [] else [.descriptorLength]) ++
      (if Machine.validLen f.len then [] else [.responseLength])
  | .reset _ => []
  | .encode f => if Machine.validLen f.len then [] else [.responseLength]

/-- No check fails. -/
abbrev Instr.wellFormed (i : Instr) : Prop := i.illFormed = []

end Sys2Proof
end

