-- ==== Sys2Proof/Certificates/Slice0/Obligations.lean ====
section
/-! DEFINITION. The statements about the block, each from a rule of spec/ or from the sections its entry in
OBLIGATIONS.json cites. `beginStep s` is the state in which the step's own effect starts: the host's sample used up,
the step counted, the port outputs of the last step gone. -/

open Sys2Proof Sys2Proof.Machine

/-! ### Requests and their words -/

/-- Every request, with every operand, comes back from its word. The bits above `req_op` are numbered by the model
(entry 9). -/
def Obligations.DecodeOfEncodeIsTheRequest : Prop :=
  ∀ i : Instr, decode (encode i) = .ok i

/-- The request word drops no bit of the port and the port drops no bit of the word (entry 9). -/
def Obligations.RequestWordIsTheWholePort : Prop :=
  (∀ r : Request, Request.ofBits r.bits = r) ∧ (∀ b : BitVec requestBits, (Request.ofBits b).bits = b)

/-- R90: `req_op` selects the request; by R104 it reads its own inputs and no other. -/
def Obligations.ReqOpSelectsTheRequest : Prop :=
  ∀ r : Request,
    (r.op = 0#2 → decodeRequest r =
      .ok (.execute r.cmd r.cmdLen ⟨r.len, r.pre, r.post, r.cenc, r.renc, r.slow⟩)) ∧
    (r.op = 1#2 → decodeRequest r = .ok (.reset r.scratchOk)) ∧
    (r.op = 2#2 → decodeRequest r = .ok (.encode ⟨r.len, r.pre, r.post, r.cenc, r.renc, r.slow⟩)) ∧
    (r.op = 3#2 → decodeRequest r = .error .reservedOp)

/-- Words written out from R90 and R21 decode to the requests they stand for: the three table rows with operands of
zero, and the identify request of 95_test_vectors.md L1-6 (entry 9 for the bits above `req_op`). -/
def Obligations.WrittenOutWordsDecode : Prop :=
  decodeTableWord 8 0b00 = some (.execute 0#64 0#32 ⟨0#32, 0#32, 0#32, false, false, false⟩) ∧
  decodeTableWord 8 0b01 = some (.reset false) ∧
  decodeTableWord 8 0b10 = some (.encode ⟨0#32, 0#32, 0#32, false, false, false⟩) ∧
  decodeTableWord 8 0b11 = none ∧
  decodeTableWord 198 (0x90 * 2 ^ 2 + 8 * 2 ^ 66 + 4 * 2 ^ 98) =
    some (.execute 0x90#64 8#32 ⟨4#32, 0#32, 0#32, false, false, false⟩)

/-- The text form of R104 with its defaults (entry 17 for what the form leaves open). -/
def Obligations.TextFormFillsDefaults : Prop :=
  parseRequest "ENCODE len=4" = some (.encode ⟨4#32, 0#32, 0#32, false, false, false⟩) ∧
  parseRequest "RESET" = some (.reset true) ∧
  parseRequest "RESET noscratch" = some (.reset false) ∧
  parseRequest "EXECUTE cmd=0x90,0,0,0,0,0,0,0 len=4" =
    some (.execute 0x90#64 8#32 ⟨4#32, 0#32, 0#32, false, false, false⟩)

/-! ### The encoder -/

/-- R94, R95: the eight valid lengths, compared over all 32 bits, multiples of 4 below 2^15; the encoder has a value
exactly for them. -/
def Obligations.ValidLengthsAreTheEight : Prop :=
  (∀ n : Word, validLen n = true ↔
    n = 0#32 ∨ n = 4#32 ∨ n = 0x200#32 ∨ n = 0x400#32 ∨ n = 0x800#32 ∨ n = 0x1000#32 ∨ n = 0x2000#32 ∨
      n = 0x4000#32) ∧
  (∀ n : Word, validLen n = true → n.toNat % 4 = 0 ∧ n.toNat < 2 ^ 15) ∧
  (∀ f : OpFlags, (encodeFlags f).isSome = validLen f.len)

/-- R98: the block-size table, defined exactly for the valid lengths, a bijection onto the 3-bit values. -/
def Obligations.BlockSizeTableIsABijection : Prop :=
  (∀ (n : Word) (b : BitVec 3), blkSize n = some b ↔
    (n = 0#32 ∧ b = 0#3) ∨ (n = 0x200#32 ∧ b = 1#3) ∨ (n = 0x400#32 ∧ b = 2#3) ∨ (n = 0x800#32 ∧ b = 3#3) ∨
      (n = 0x1000#32 ∧ b = 4#3) ∨ (n = 0x2000#32 ∧ b = 5#3) ∨ (n = 0x4000#32 ∧ b = 6#3) ∨
      (n = 4#32 ∧ b = 7#3)) ∧
  (∀ n : Word, (blkSize n).isSome = validLen n) ∧
  (∀ n m : Word, ∀ b : BitVec 3, blkSize n = some b → blkSize m = some b → n = m) ∧
  (∀ b : BitVec 3, ∃ n, blkSize n = some b)

/-- R99: the transferred length a BLK_SIZE value means inverts the block-size map. -/
def Obligations.BlockLengthInvertsBlockSize : Prop :=
  (∀ (n : Word) (b : BitVec 3), blkSize n = some b → blockLength b = n.toNat) ∧
  blockLength 0#3 = 0 ∧ blockLength 7#3 = 4 ∧
  (∀ b : BitVec 3, b ≠ 0#3 → b ≠ 7#3 → blockLength b = 0x100 <<< b.toNat)

/-- R120: the closed form packs the fields of R96 side by side. -/
def Obligations.EncodePacksTheFields : Prop :=
  ∀ f : OpFlags, validLen f.len = true → ∃ b : BitVec 3, blkSize f.len = some b ∧
    encodeFlags f = some
      (0#4 ++ BitVec.ofBool f.slow ++ b ++ 0#1 ++ BitVec.ofBool f.cenc ++ f.post.extractLsb' 0 6 ++ 0#1 ++
        BitVec.ofBool (f.cenc || f.renc) ++ BitVec.ofBool f.renc ++ f.pre.extractLsb' 0 13)

/-- R123: the block-size law. -/
def Obligations.EncodeBlockSizeLaw : Prop :=
  ∀ (f : OpFlags) (cw : Word), encodeFlags f = some cw →
    (f.len = 0#32 → cw.extractLsb' 24 3 = 0#3) ∧ (f.len = 0x200#32 → cw.extractLsb' 24 3 = 1#3) ∧
    (f.len = 0x400#32 → cw.extractLsb' 24 3 = 2#3) ∧ (f.len = 0x800#32 → cw.extractLsb' 24 3 = 3#3) ∧
    (f.len = 0x1000#32 → cw.extractLsb' 24 3 = 4#3) ∧ (f.len = 0x2000#32 → cw.extractLsb' 24 3 = 5#3) ∧
    (f.len = 0x4000#32 → cw.extractLsb' 24 3 = 6#3) ∧ (f.len = 4#32 → cw.extractLsb' 24 3 = 7#3)

/-- R124, R101: the security law. -/
def Obligations.EncodeSecurityLaw : Prop :=
  ∀ (f : OpFlags) (cw : Word), encodeFlags f = some cw →
    (cw.getLsbD 14 = true ↔ f.cenc = true ∨ f.renc = true) ∧
      cw.getLsbD 22 = f.cenc ∧ cw.getLsbD 13 = f.renc

/-- R125: the delay law, with the boundary and the wrap; an out-of-range delay is truncated, not rejected. -/
def Obligations.EncodeDelayLaw : Prop :=
  ∀ f : OpFlags, validLen f.len = true → ∃ cw, encodeFlags f = some cw ∧
    (cw.extractLsb' 0 13).toNat = f.pre.toNat % 2 ^ 13 ∧ (cw.extractLsb' 16 6).toNat = f.post.toNat % 2 ^ 6 ∧
    (f.pre = 0x1FFF#32 → cw.extractLsb' 0 13 = 0x1FFF#13) ∧ (f.pre = 0x2000#32 → cw.extractLsb' 0 13 = 0#13) ∧
    (f.post = 0x3F#32 → cw.extractLsb' 16 6 = 0x3F#6) ∧ (f.post = 0x40#32 → cw.extractLsb' 16 6 = 0#6)

/-- R126: the zero-bits law. -/
def Obligations.EncodeZeroBitsLaw : Prop :=
  ∀ (f : OpFlags) (cw : Word), encodeFlags f = some cw → cw &&& 0xF0808000#32 = 0#32

/-- R127: the determination law: the encoder is injective on the reduced tuple and depends on nothing else; the
other bits are constant, and bit 14 is determined by bits 22 and 13. -/
def Obligations.EncodeDeterminationLaw : Prop :=
  ∀ (f g : OpFlags) (cw cw' : Word), encodeFlags f = some cw → encodeFlags g = some cw' →
    (cw = cw' ↔
      f.len = g.len ∧ f.pre.extractLsb' 0 13 = g.pre.extractLsb' 0 13 ∧
        f.post.extractLsb' 0 6 = g.post.extractLsb' 0 6 ∧ f.cenc = g.cenc ∧ f.renc = g.renc ∧
        f.slow = g.slow) ∧
    cw.extractLsb' 28 4 = cw'.extractLsb' 28 4 ∧ cw.getLsbD 23 = cw'.getLsbD 23 ∧
    cw.getLsbD 15 = cw'.getLsbD 15 ∧ cw.getLsbD 14 = (cw.getLsbD 22 || cw.getLsbD 13)

/-- The value the block writes to Control, field by field: R96's column of written values. -/
def Obligations.ControlValueFields : Prop :=
  ∀ (f : OpFlags) (cw : Word), encodeFlags f = some cw →
    let v := controlValue cw
    v.getLsbD 31 = true ∧ v.getLsbD 30 = false ∧ v.getLsbD 29 = true ∧ v.getLsbD 28 = false ∧
    v.getLsbD 27 = f.slow ∧ some (v.extractLsb' 24 3) = blkSize f.len ∧ v.getLsbD 23 = false ∧
    v.getLsbD 22 = f.cenc ∧ v.extractLsb' 16 6 = f.post.extractLsb' 0 6 ∧ v.getLsbD 15 = false ∧
    v.getLsbD 14 = (f.cenc || f.renc) ∧ v.getLsbD 13 = f.renc ∧
    v.extractLsb' 0 13 = f.pre.extractLsb' 0 13

/-! ### The three requests -/

/-- R130: ENCODE answers in one step, with `Encode(f)` or InvalidArgument; nothing but `status_q`, `cw_q` and `state`
changes. -/
def Obligations.EncodeRequestAnswers : Prop :=
  ∀ (s : State) (f : OpFlags), s.fsm = .idle →
    (validLen f.len = true → ∃ cw, encodeFlags f = some cw ∧
      exec (.encode f) s = .next { s with fsm := .resp, statusQ := 0#2, cwQ := cw }) ∧
    (validLen f.len = false →
      exec (.encode f) s = .next { s with fsm := .resp, statusQ := 1#2, cwQ := 0#32 })

/-- R140, its EXECUTE line: an accepted EXECUTE latches the descriptor, `Encode(f) | 0xA0000000`, the length, a zero
cursor and the caller's sink, and goes to WR_CMD; nothing else of the block changes. The next script of a scripted
controller comes into play with both counts at 0 (R43, entry 4). -/
def Obligations.ExecuteRequestStarts : Prop :=
  ∀ (s : State) (cmd : DWord) (f : OpFlags), s.fsm = .idle → paramsLegal s.params = true →
    validLen f.len = true → ∃ cw, encodeFlags f = some cw ∧
      exec (.execute cmd 8#32 f) s = .next
        { s with
          fsm := .wrCmd
          dp := some
            { cmd := cmd, ctrl := cw ||| 0xA0000000#32, len := f.len.extractLsb' 0 15, cursor := 0#15,
              sink := .caller }
          script := feedHead Script.free s.scripts
          scripts := feedTail s.scripts
          statusReads := 0
          fifoReads := 0 }

/-- R151: EXECUTE with a bad descriptor length or response length is InvalidArgument, with no access and every
datapath register kept. -/
def Obligations.ExecuteRejectsBadArguments : Prop :=
  ∀ (s : State) (cmd : DWord) (n : Word) (f : OpFlags), s.fsm = .idle →
    n ≠ 8#32 ∨ validLen f.len = false →
      exec (.execute cmd n f) s = .next { s with fsm := .resp, statusQ := 1#2, cwQ := 0#32 }

/-- R180, R183: an accepted RESET latches RESET_CMD, `Encode(RESET_FLAGS) | 0xA0000000` with BLK_SIZE 5, the length
0x2000, a zero cursor and the scratch sink; nothing else of the block changes. The next script of a scripted controller
comes into play with both counts at 0 (R43, entry 4). -/
def Obligations.ResetRequestStarts : Prop :=
  ∀ s : State, s.fsm = .idle → paramsLegal s.params = true →
    ∃ cw, encodeFlags
        ⟨0x2000#32, s.params.resetPre.setWidth 32, s.params.resetPost.setWidth 32, s.params.resetCenc,
          s.params.resetRenc, s.params.resetSlow⟩ = some cw ∧
      cw.extractLsb' 24 3 = 5#3 ∧
      exec (.reset true) s = .next
        { s with
          fsm := .wrCmd
          dp := some
            { cmd := s.params.resetCmd, ctrl := cw ||| 0xA0000000#32, len := 0x2000#15, cursor := 0#15,
              sink := .scratch }
          script := feedHead Script.free s.scripts
          scripts := feedTail s.scripts
          statusReads := 0
          fifoReads := 0 }

/-- R181: RESET without a discard sink is ResourceExhausted, with no access and every datapath register kept. -/
def Obligations.ResetRequestNeedsAScratchSink : Prop :=
  ∀ s : State, s.fsm = .idle →
    exec (.reset false) s = .next { s with fsm := .resp, statusQ := 2#2, cwQ := 0#32 }

/-- The frame of every request: outside `state`, the datapath, `status_q`, `cw_q` and a scripted controller's script and
counts nothing changes, and no byte of the buffer; the datapath, the script and the counts change only where a
transaction starts, `status_q` and `cw_q` only where one does not. -/
def Obligations.RequestFrame : Prop :=
  ∀ (i : Instr) (s t : State), exec i s = .next t →
    t = { s with
      fsm := t.fsm, dp := t.dp, statusQ := t.statusQ, cwQ := t.cwQ, script := t.script, scripts := t.scripts,
      statusReads := t.statusReads, fifoReads := t.fifoReads } ∧
    (∀ a, Memory.read t.buffer a = Memory.read s.buffer a) ∧
    (t.fsm ≠ .wrCmd → t.dp = s.dp ∧ t.script = s.script ∧ t.scripts = s.scripts ∧
      t.statusReads = s.statusReads ∧ t.fifoReads = s.fifoReads) ∧
    (t.fsm ≠ .resp → t.statusQ = s.statusQ ∧ t.cwQ = s.cwQ)

/-- R102b, R102c: a request offered in IDLE is answered InvalidArgument exactly when it is ill formed. -/
def Obligations.IllFormedIsInvalidArgument : Prop :=
  ∀ (i : Instr) (s t : State), s.fsm = .idle → exec i s = .next t →
    ((t.fsm = .resp ∧ t.statusQ = 1#2) ↔ ¬ i.wellFormed)

/-! ### Steps of the machine -/

/-- R22: the response port's outputs are functions of the state; R200: the bool of the source's `execute`. -/
def Obligations.OutputsFollowTheState : Prop :=
  ∀ s : State, (s.reqReady = true ↔ s.fsm = .idle) ∧ (s.respValid = true ↔ s.fsm = .resp) ∧
    s.respStatus = s.statusQ ∧ s.respCw = s.cwQ ∧ (s.executeOk = true ↔ s.respStatus = 0#2)

/-- R25, R29: the codes of the `state` and `sink` registers; every 3-bit value is the code of one FSM state. -/
def Obligations.RegisterCodes : Prop :=
  fsmCode .idle = 0#3 ∧ fsmCode .wrCmd = 1#3 ∧ fsmCode .wrCtrl = 2#3 ∧ fsmCode .poll = 3#3 ∧
  fsmCode .drain = 4#3 ∧ fsmCode .resp = 5#3 ∧ (∀ b : BitVec 3, ∃ x, fsmCode x = b ∧ ∀ y, fsmCode y = b → y = x) ∧
  sinkCode .caller = 0#1 ∧ sinkCode .scratch = 1#1

/-- A step in IDLE with `rst = 0` and a request on the port runs the decoded request; a code the decoder rejects is
answered InvalidArgument (R102a). -/
def Obligations.StepRunsTheOfferedRequest : Prop :=
  ∀ (s : State) (b : BitVec requestBits), s.fsm = .idle → (sampleInputs s).rst = false →
    (sampleInputs s).reqValid = true → (sampleInputs s).req = Request.ofBits b →
      (∀ i, decode b = .ok i → step s = exec i (beginStep s)) ∧
      (decode b = .error .reservedOp →
        step s = .next { beginStep s with fsm := .resp, statusQ := 1#2, cwQ := 0#32 })

/-- The state with a table word on its port runs that word's request in its next step. -/
def Obligations.FetchWordRunsNext : Prop :=
  ∀ (s : State) (nbits w : Nat) (i : Instr), decodeTableWord nbits w = some i →
    step (s.withFetchWord nbits w) = exec i (beginStep (s.withFetchWord nbits w)) ∧
    beginStep (s.withFetchWord nbits w) =
      { s with fsm := .idle, ticks := s.ticks + 1, bufOut := none, busOut := none }

/-- What a step does around its own effect: the head of the host's script is used up, one step is counted, and the
port outputs of the last step are gone. -/
def Obligations.BeginStepUsesUpTheSample : Prop :=
  ∀ s : State, ∀ inp q c, s.host = ⟨inp :: q, c⟩ →
    sampleInputs s = inp ∧
    beginStep s = { s with host := ⟨q, c⟩, ticks := s.ticks + 1, bufOut := none, busOut := none }

/-- R141: IDLE with no request: nothing of the block changes, no access, no buffer write. -/
def Obligations.IdleWaits : Prop :=
  ∀ s : State, s.fsm = .idle → (sampleInputs s).rst = false → (sampleInputs s).reqValid = false →
    step s = .next { s with host := feedTail s.host, ticks := s.ticks + 1, bufOut := none, busOut := none }

/-- R142: WR_CMD writes `cmd_q` to Command in one 8-byte access and goes to WR_CTRL. -/
def Obligations.WrCmdWritesTheDescriptor : Prop :=
  ∀ (s : State) (d : Datapath), s.fsm = .wrCmd → s.dp = some d → paramsLegal s.params = true →
    (sampleInputs s).rst = false →
      step s = .next
        { beginStep s with
          fsm := .wrCtrl
          busOut := some (.write8 s.params.cmdAddr d.cmd)
          trace := s.trace ++ [.bus (.write8 s.params.cmdAddr d.cmd)] }

/-- R143: WR_CTRL writes `ctrl_q` to Control and goes to POLL. -/
def Obligations.WrCtrlStartsTheTransaction : Prop :=
  ∀ (s : State) (d : Datapath), s.fsm = .wrCtrl → s.dp = some d → paramsLegal s.params = true →
    (sampleInputs s).rst = false →
      step s = .next
        { beginStep s with
          fsm := .poll
          busOut := some (.write4 s.params.ctrlAddr d.ctrl)
          trace := s.trace ++ [.bus (.write4 s.params.ctrlAddr d.ctrl)] }

/-- R144: POLL makes one status read `w` and branches on it, busy first. -/
def Obligations.PollBranchesOnTheStatus : Prop :=
  ∀ (s : State) (d : Datapath), s.fsm = .poll → s.dp = some d → paramsLegal s.params = true →
    (sampleInputs s).rst = false →
      let w := statusWord (beginStep s)
      let t : State :=
        { beginStep s with
          statusReads := s.statusReads + 1
          busOut := some (.read4 s.params.ctrlAddr w)
          trace := s.trace ++ [.bus (.read4 s.params.ctrlAddr w)] }
      (w.getLsbD 31 = false →
        step s = .next { t with fsm := .resp, statusQ := 0#2, cwQ := d.ctrl }) ∧
      (w.getLsbD 31 = true → w.getLsbD 23 = true → step s = .next { t with fsm := .drain }) ∧
      (w.getLsbD 31 = true → w.getLsbD 23 = false → step s = .next { t with fsm := .poll })

/-- R145, R146: DRAIN reads one FIFO word `w` whatever the cursor; below the length it moves the cursor by 4 and, for
the caller's sink, writes the word at the old cursor; at the length it discards the word. -/
def Obligations.DrainStoresOrDiscards : Prop :=
  ∀ (s : State) (d : Datapath), s.fsm = .drain → s.dp = some d → paramsLegal s.params = true →
    (sampleInputs s).rst = false →
      let w := fifoWord (beginStep s)
      let t : State :=
        { beginStep s with
          fsm := .poll
          fifoReads := s.fifoReads + 1
          busOut := some (.read4 s.params.dataAddr w)
          trace := s.trace ++ [.bus (.read4 s.params.dataAddr w)] }
      (d.cursor.toNat < d.len.toNat → d.sink = .caller →
        step s = .next
          { t with
            dp := some { d with cursor := d.cursor + 4#15 }
            bufOut := some ⟨d.cursor, w⟩
            buffer := bufStore s.buffer d.cursor.toNat w
            trace := t.trace ++ [.buf ⟨d.cursor, w⟩] }) ∧
      (d.cursor.toNat < d.len.toNat → d.sink = .scratch →
        step s = .next { t with dp := some { d with cursor := d.cursor + 4#15 } }) ∧
      (d.len.toNat ≤ d.cursor.toNat → step s = .next t)

/-- R147: RESP holds the response, with no access, until the host takes it; then the block is IDLE. -/
def Obligations.RespHoldsUntilTaken : Prop :=
  ∀ s : State, s.fsm = .resp → (sampleInputs s).rst = false →
    s.respValid = true ∧ s.reqReady = false ∧
    ((sampleInputs s).respReady = true → step s = .next { beginStep s with fsm := .idle }) ∧
    ((sampleInputs s).respReady = false → step s = .next (beginStep s))

/-- R148: in every state `rst` gives what R41 says, IDLE, status 0, Control Word 0, absent datapath registers, no access
and no buffer write, whatever request is offered; POLL and DRAIN are left in no other way than by a status read that
shows busy clear. -/
def Obligations.RstWinsInEveryState : Prop :=
  (∀ s : State, (sampleInputs s).rst = true →
    step s = .next
      { s with
        fsm := .idle, dp := none, statusQ := 0#2, cwQ := 0#32, bufOut := none, busOut := none,
        host := feedTail s.host, ticks := s.ticks + 1 }) ∧
  (∀ s t : State, (sampleInputs s).rst = false → step s = .next t → s.fsm = .poll ∨ s.fsm = .drain →
    t.fsm = .poll ∨ t.fsm = .drain ∨
      (s.fsm = .poll ∧ busyBit (statusWord (beginStep s)) = false ∧ t.fsm = .resp))

/-- R230: what `rst` leaves of the block is what the reset state holds, and its outputs are those of the table. -/
def Obligations.ResetStateIsWhatRstLeaves : Prop :=
  (∀ s t : State, (sampleInputs s).rst = true → step s = .next t →
    t.fsm = State.reset.fsm ∧ t.dp = State.reset.dp ∧ t.statusQ = State.reset.statusQ ∧
      t.cwQ = State.reset.cwQ ∧ t.bufOut = State.reset.bufOut ∧ t.busOut = State.reset.busOut ∧
      t.buffer = s.buffer ∧ t.trace = s.trace) ∧
  State.reset.fsm = .idle ∧ State.reset.dp = none ∧ State.reset.respStatus = 0#2 ∧
    State.reset.respCw = 0#32 ∧ State.reset.reqReady = true ∧ State.reset.respValid = false ∧
    State.reset.bufOut = none ∧ State.reset.busOut = none

/-- R233: FSM values 6 and 7 fault, and no step goes to them. -/
def Obligations.ReservedFsmValuesFaultAndAreNeverEntered : Prop :=
  (∀ s : State, (sampleInputs s).rst = false → s.fsm = .reserved6 ∨ s.fsm = .reserved7 →
    step s = .fault .unreachableState) ∧
  (∀ s t : State, step s = .next t → t.fsm ≠ .reserved6 ∧ t.fsm ≠ .reserved7)

/-- R159, R244: outside IDLE the block is not ready, and what the host offers on its request port makes no difference
to the step. -/
def Obligations.BusyBlockIgnoresOfferedRequests : Prop :=
  ∀ (s : State) (inp inp' : HostInputs) (q c : List HostInputs), s.fsm ≠ .idle →
    inp.rst = inp'.rst → inp.respReady = inp'.respReady →
      s.reqReady = false ∧
      step { s with host := ⟨inp :: q, c⟩ } = step { s with host := ⟨inp' :: q, c⟩ }

/-- R205, R201, R202: the acceptance step alone decides an error, from the sampled inputs: InvalidArgument in exactly
the cases (a) to (d) of R201. -/
def Obligations.InvalidArgumentExactlyInItsCases : Prop :=
  ∀ s t : State, s.fsm = .idle → (sampleInputs s).rst = false → (sampleInputs s).reqValid = true →
    step s = .next t →
      let r := (sampleInputs s).req
      ((t.fsm = .resp ∧ t.statusQ = 1#2) ↔
        (r.op = 0#2 ∧ validLen r.len = false) ∨ (r.op = 0#2 ∧ r.cmdLen ≠ 8#32) ∨
          (r.op = 2#2 ∧ validLen r.len = false) ∨ r.op = 3#2) ∧
      (t.fsm = .resp ∧ t.statusQ = 1#2 →
        t = { beginStep s with fsm := .resp, statusQ := 1#2, cwQ := 0#32 })

/-- R202: ResourceExhausted exactly for RESET without a discard sink, before any access. -/
def Obligations.ResourceExhaustedExactlyForResetWithoutSink : Prop :=
  ∀ s t : State, s.fsm = .idle → (sampleInputs s).rst = false → (sampleInputs s).reqValid = true →
    step s = .next t →
      let r := (sampleInputs s).req
      ((t.fsm = .resp ∧ t.statusQ = 2#2) ↔ (r.op = 1#2 ∧ r.scratchOk = false)) ∧
      (t.fsm = .resp ∧ t.statusQ = 2#2 →
        t = { beginStep s with fsm := .resp, statusQ := 2#2, cwQ := 0#32 })

/-- R155, R205: a transaction reaches RESP only from POLL, by a status read that shows busy clear, and then with
status 0 and the value written to Control, however many words were stored. -/
def Obligations.TransactionEndsOnlyWithSuccess : Prop :=
  ∀ s t : State, inTransaction s.fsm = true → step s = .next t →
    (t.fsm = .resp ↔
      s.fsm = .poll ∧ (sampleInputs s).rst = false ∧ busyBit (statusWord (beginStep s)) = false) ∧
    (t.fsm = .resp → t.statusQ = 0#2 ∧ t.cwQ = (datapath (beginStep s)).ctrl ∧ t.buffer = s.buffer)

/-- R24: the access of a step is one of the four kinds, fixed by the FSM state; R10, R73: a step makes at most one
access and at most one buffer write, recorded in that order. -/
def Obligations.StepMakesItsOneAccess : Prop :=
  ∀ s t : State, step s = .next t →
    t.trace = s.trace ++ t.busOut.toList.map Event.bus ++ t.bufOut.toList.map Event.buf ∧
    (∀ a, t.busOut = some a →
      (s.fsm = .wrCmd ∧ a = .write8 s.params.cmdAddr (datapath (beginStep s)).cmd) ∨
      (s.fsm = .wrCtrl ∧ a = .write4 s.params.ctrlAddr (datapath (beginStep s)).ctrl) ∨
      (s.fsm = .poll ∧ a = .read4 s.params.ctrlAddr (statusWord (beginStep s))) ∨
      (s.fsm = .drain ∧ a = .read4 s.params.dataAddr (fifoWord (beginStep s)))) ∧
    (t.busOut = none ↔ (sampleInputs s).rst = true ∨ inTransaction s.fsm = false)

/-- R23: `buf_we` is 1 only in a DRAIN step that stores a word, and then at the cursor. -/
def Obligations.BufferWriteOnlyInAStoringDrain : Prop :=
  ∀ s t : State, step s = .next t → ∀ off w, t.bufOut = some ⟨off, w⟩ →
    s.fsm = .drain ∧ (sampleInputs s).rst = false ∧
      off = (datapath (beginStep s)).cursor ∧ off.toNat < (datapath (beginStep s)).len.toNat ∧
      (datapath (beginStep s)).sink = .caller ∧ w = fifoWord (beginStep s)

/-- R68, and the frame of every step on the buffer: the step that stores at `drainTarget` writes the FIFO word
there, little-endian, and every other byte reads as before; a step that stores nothing leaves every byte. -/
def Obligations.StepChangesOnlyTheStoredBytes : Prop :=
  ∀ s t : State, step s = .next t →
    (∀ off, s.fsm = .drain → (sampleInputs s).rst = false → drainTarget (beginStep s) = some off →
      (∀ k, k < 4 →
        Memory.read t.buffer (off.toNat + k) = some ((fifoWord (beginStep s)).extractLsb' (8 * k) 8)) ∧
      (∀ a, a < off.toNat ∨ off.toNat + 4 ≤ a → Memory.read t.buffer a = Memory.read s.buffer a)) ∧
    (s.fsm ≠ .drain ∨ (sampleInputs s).rst = true ∨ drainTarget (beginStep s) = none →
      ∀ a, Memory.read t.buffer a = Memory.read s.buffer a)

/-- R26, R29: the datapath registers other than the cursor are written only in the step that accepts a request; only
`rst` takes their values away (R41). -/
def Obligations.DatapathWrittenOnlyAtAcceptance : Prop :=
  ∀ (s t : State) (d : Datapath), step s = .next t → s.dp = some d → (sampleInputs s).rst = false →
    s.fsm ≠ .idle ∨ (sampleInputs s).reqValid = false →
      ∃ c, t.dp = some { d with cursor := c } ∧ (s.fsm ≠ .drain → c = d.cursor)

/-- R184: while the sink is SCRATCH no step asserts `buf_we` or changes the buffer, and a DRAIN step still reads the
FIFO. -/
def Obligations.ScratchWordsNeverLeaveTheBlock : Prop :=
  ∀ (s t : State) (d : Datapath), s.dp = some d → d.sink = .scratch → step s = .next t →
    t.bufOut = none ∧ t.buffer = s.buffer ∧
    (s.fsm = .drain → (sampleInputs s).rst = false →
      t.busOut = some (.read4 s.params.dataAddr (fifoWord (beginStep s)))) ∧
    ((sampleInputs s).rst = false → inTransaction s.fsm = true → ∃ d', t.dp = some d' ∧ d'.sink = .scratch)

/-- R235: no step changes the parameters. -/
def Obligations.ParametersNeverChange : Prop :=
  ∀ s t : State, step s = .next t → t.params = s.params

/-- R31: what an earlier request left in the datapath, `status_q` and `cw_q`, and by R43 what it left unread of its
script, has no effect on the acceptance of a later one: the FSM goes to the same state, and what the rest of the
request reads is the same. -/
def Obligations.EarlierRequestsLeaveNoTrace : Prop :=
  ∀ (s t t' : State) (dp : Option Datapath) (st : BitVec 2) (cw : Word) (sc : Script) (k j : Nat), s.fsm = .idle →
    (sampleInputs s).rst = false → (sampleInputs s).reqValid = true → step s = .next t →
    step { s with dp := dp, statusQ := st, cwQ := cw, script := sc, statusReads := k, fifoReads := j } =
        .next t' →
      t'.fsm = t.fsm ∧
      (t.fsm = .wrCmd → t'.dp = t.dp ∧ t'.script = t.script ∧ t'.statusReads = 0 ∧ t.statusReads = 0 ∧
        t'.fifoReads = 0 ∧ t.fifoReads = 0) ∧
      (t.fsm = .resp → t'.statusQ = t.statusQ ∧ t'.cwQ = t.cwQ) ∧ (t.fsm = .wrCmd ∨ t.fsm = .resp) ∧
      t'.buffer = t.buffer ∧ t'.trace = t.trace ∧ t'.params = t.params ∧ t'.scripts = t.scripts

/-- R62: the bytes of an access lie little-endian from its address on, and an access is 8 or 4 bytes wide. -/
def Obligations.AccessLanesAreLittleEndian : Prop :=
  (∀ (a : Nat) (v : DWord), (accessLanes (.write8 a v)).length = accessSize (.write8 a v) ∧
    ∀ k, k < 8 → (accessLanes (.write8 a v))[k]? = some (a + k, v.extractLsb' (8 * k) 8)) ∧
  (∀ (a : Nat) (v : Word), (accessLanes (.write4 a v)).length = accessSize (.write4 a v) ∧
    ∀ k, k < 4 → (accessLanes (.write4 a v))[k]? = some (a + k, v.extractLsb' (8 * k) 8)) ∧
  (∀ (a : Nat) (v : Word), (accessLanes (.read4 a v)).length = accessSize (.read4 a v) ∧
    ∀ k, k < 4 → (accessLanes (.read4 a v))[k]? = some (a + k, v.extractLsb' (8 * k) 8))

/-- R63: the Command write of WR_CMD carries descriptor byte `i` to address `CMD_ADDR + i`, and the register was last
written with `cmd_q`. -/
def Obligations.DescriptorBytesGoToTheirLanes : Prop :=
  ∀ (s t : State) (d : Datapath), s.fsm = .wrCmd → s.dp = some d → (sampleInputs s).rst = false →
    step s = .next t →
      commandWritten t = some d.cmd ∧
      ∃ a, t.busOut = some a ∧ accessAddr a = s.params.cmdAddr ∧
        ∀ i, i < 8 → (accessLanes a)[i]? = some (s.params.cmdAddr + i, d.cmd.extractLsb' (8 * i) 8)

/-- R61, R66: the requirements on the register addresses; the last three bounds are the model's (entry 2). -/
def Obligations.LegalParametersAreDisjointAndAligned : Prop :=
  ∀ p : Params, paramsLegal p = true ↔
    (∀ a, ¬((p.cmdAddr ≤ a ∧ a < p.cmdAddr + 8) ∧ (p.ctrlAddr ≤ a ∧ a < p.ctrlAddr + 4))) ∧
    (∀ a, ¬((p.cmdAddr ≤ a ∧ a < p.cmdAddr + 8) ∧ (p.dataAddr ≤ a ∧ a < p.dataAddr + 4))) ∧
    (∀ a, ¬((p.ctrlAddr ≤ a ∧ a < p.ctrlAddr + 4) ∧ (p.dataAddr ≤ a ∧ a < p.dataAddr + 4))) ∧
    p.cmdAddr % 8 = 0 ∧ p.ctrlAddr % 4 = 0 ∧ p.dataAddr % 4 = 0 ∧
    p.cmdAddr + 8 ≤ 2 ^ p.busAddrW ∧ p.ctrlAddr + 4 ≤ 2 ^ p.busAddrW ∧ p.dataAddr + 4 ≤ 2 ^ p.busAddrW

/-- R218: a configuration that breaks R61 or R66 is refused where a transaction would start or go on, and no step under
it makes a bus access (entry 2). -/
def Obligations.IllegalConfigurationIsRefused : Prop :=
  ∀ s : State, paramsLegal s.params = false →
    (∀ t, step s = .next t → t.busOut = none) ∧
    ((sampleInputs s).rst = false → inTransaction s.fsm = true → step s = .refused .illegalConfiguration) ∧
    (s.fsm = .idle → ∀ cmd f, validLen f.len = true →
      exec (.execute cmd 8#32 f) s = .refused .illegalConfiguration) ∧
    (s.fsm = .idle → exec (.reset true) s = .refused .illegalConfiguration)

/-! ### The invariant -/

/-- Every step keeps the invariant: legal FSM values (R233), registers present when read (R31), the Control value law
(R97, R160), the cursor's bounds (R27) and its counting law (R157), fresh counts at the start of a request (R43), the
scratch sink only for the reset sequence (R29), status codes (R200), and the buffer's canonical form below 0x4000
(R69). -/
def Obligations.EveryStepKeepsTheInvariant : Prop :=
  ∀ s t : State, s.Inv → step s = .next t → t.Inv

/-- The invariant holds right after reset, whatever the open parameters are. -/
def Obligations.ResetStateMeetsTheInvariant : Prop := State.reset.Inv

/-- In a state that meets the invariant no step faults (R233). That a step refuses only in IDLE, where a transaction would
start under an illegal configuration, is the model's choice of where the refusal falls (entry 2). -/
def Obligations.NoFaultUnderTheInvariant : Prop :=
  ∀ s : State, s.Inv →
    (∀ r, step s ≠ .fault r) ∧
    (∀ r, step s = .refused r → s.fsm = .idle ∧ paramsLegal s.params = false ∧ r = .illegalConfiguration)

/-- R69, R66: every buffer word the block writes lies at a multiple of 4 and wholly below the declared length; so under
the launch premise on the caller's buffer it lies wholly in that buffer, on a 4-byte boundary. -/
def Obligations.BufferWritesStayBelowTheLength : Prop :=
  ∀ (s t : State) (d : Datapath), s.Inv → s.dp = some d → step s = .next t → ∀ off w,
    t.bufOut = some ⟨off, w⟩ → off.toNat % 4 = 0 ∧ off.toNat + 4 ≤ d.len.toNat ∧
      ∀ l : Launch, l.BufferCapacity d.len.toNat →
        (l.bufferBase + off.toNat) % 4 = 0 ∧ off.toNat + 4 ≤ l.bufferCapacity

/-- R160: every Control write carries ACTIVATE and RESET_HIGH, zeros in the bits the encoder never sets, and the
fields of `Encode(f)` for flags `f` whose length the transaction has. -/
def Obligations.EveryControlWriteIsLawful : Prop :=
  ∀ (s t : State) (a : Nat) (v : Word), s.Inv → step s = .next t → t.busOut = some (.write4 a v) →
    a = s.params.ctrlAddr ∧ v.getLsbD 31 = true ∧ v.getLsbD 29 = true ∧ v.getLsbD 30 = false ∧
    v.getLsbD 28 = false ∧ v.getLsbD 23 = false ∧ v.getLsbD 15 = false ∧
    ∃ d f cw, s.dp = some d ∧ d.len.setWidth 32 = f.len ∧ encodeFlags f = some cw ∧
      v.extractLsb' 24 4 = cw.extractLsb' 24 4 ∧ v.extractLsb' 16 7 = cw.extractLsb' 16 7 ∧
      v.extractLsb' 13 2 = cw.extractLsb' 13 2 ∧ v.extractLsb' 0 13 = cw.extractLsb' 0 13

/-! ### Whole transactions under a scripted controller (R43) -/

/-- R152, R155, R157, R158, R247: an EXECUTE that a scripted controller answers with the poll rounds `rs` and then a
status word with busy clear takes `1 + 1 + 1 + q + 2m + 1` steps to RESP, answers status 0 and the value written to
Control, makes exactly the access sequence of R152, stores the first `len/4` words little-endian one behind another,
and leaves every other byte; under the launch premises of R218 those words fit the caller's buffer. -/
def Obligations.ExecuteTransactionUnderAScript : Prop :=
  ∀ (s : State) (l : Launch) (cmd : DWord) (f : OpFlags) (cw last : Word) (rs : List Round),
    s.fsm = .idle → paramsLegal s.params = true → (sampleInputs s).reqValid = true →
    decodeRequest (sampleInputs s).req = .ok (.execute cmd 8#32 f) → encodeFlags f = some cw →
    NoReset (4 + roundSteps rs) s → (∀ x ∈ rs, x.ok = true) → busyBit last = false →
    ScriptedController (4 + roundSteps rs) s (finiteScript (roundStatuses rs ++ [last]))
      (finiteScript (roundWords rs)) →
    l.Premises s.params f.len.toNat →
    ∃ t : State, core.run (4 + roundSteps rs) s = .next t ∧
      t.fsm = .resp ∧ t.statusQ = 0#2 ∧ t.cwQ = cw ||| 0xA0000000#32 ∧
      busAccesses t.trace = busAccesses s.trace ++
        [.write8 s.params.cmdAddr cmd, .write4 s.params.ctrlAddr (cw ||| 0xA0000000#32)] ++
        roundAccesses s.params rs ++ [.read4 s.params.ctrlAddr last] ∧
      bufWrites t.trace = bufWrites s.trace ++
        wordWrites 0 (keptWords (f.len.extractLsb' 0 15) (roundWords rs)) ∧
      (∀ k w, (keptWords (f.len.extractLsb' 0 15) (roundWords rs))[k]? = some w → ∀ j, j < 4 →
        4 * k + j < l.bufferCapacity ∧ Memory.read t.buffer (4 * k + j) = some (w.extractLsb' (8 * j) 8)) ∧
      (∀ a, 4 * min (roundWords rs).length (f.len.toNat / 4) ≤ a →
        Memory.read t.buffer a = Memory.read s.buffer a) ∧
      t.dp.map (fun d => d.cursor.toNat) = some (4 * min (roundWords rs).length (f.len.toNat / 4))

/-- R180, R184, R157: the same for RESET, which makes the access sequence of R152 with RESET_CMD and the Control value
of RESET_FLAGS, counts the words, and writes no byte of the buffer. RESET is for a controller that may be busy
(R185), so of the launch premises it has exclusive ownership alone (R237). -/
def Obligations.ResetTransactionUnderAScript : Prop :=
  ∀ (s : State) (l : Launch) (cw last : Word) (rs : List Round),
    s.fsm = .idle → paramsLegal s.params = true → (sampleInputs s).reqValid = true →
    decodeRequest (sampleInputs s).req = .ok (.reset true) → encodeFlags (resetFlags s.params) = some cw →
    NoReset (4 + roundSteps rs) s → (∀ x ∈ rs, x.ok = true) → busyBit last = false →
    ScriptedController (4 + roundSteps rs) s (finiteScript (roundStatuses rs ++ [last]))
      (finiteScript (roundWords rs)) →
    l.ExclusiveOwnership s.params →
    ∃ t : State, core.run (4 + roundSteps rs) s = .next t ∧
      t.fsm = .resp ∧ t.statusQ = 0#2 ∧ t.cwQ = cw ||| 0xA0000000#32 ∧
      busAccesses t.trace = busAccesses s.trace ++
        [.write8 s.params.cmdAddr s.params.resetCmd, .write4 s.params.ctrlAddr (cw ||| 0xA0000000#32)] ++
        roundAccesses s.params rs ++ [.read4 s.params.ctrlAddr last] ∧
      bufWrites t.trace = bufWrites s.trace ∧ t.buffer = s.buffer ∧
      t.dp.map (fun d => d.cursor.toNat) = some (4 * min (roundWords rs).length 0x800)

/-- R152, its last sentence on runs that do not end: after any poll rounds the transaction is in POLL, not answered,
with exactly that prefix of the access sequence made. The counts of a script are 0 in WR_CMD (`State.Inv.counts_fresh`,
R43). -/
def Obligations.UnfinishedTransactionMakesAPrefix : Prop :=
  ∀ (s : State) (d : Datapath) (rs : List Round),
    s.fsm = .wrCmd → s.dp = some d → paramsLegal s.params = true → s.statusReads = 0 → s.fifoReads = 0 →
    NoReset (2 + roundSteps rs) s → (∀ x ∈ rs, x.ok = true) →
    ScriptedController (2 + roundSteps rs) s (finiteScript (roundStatuses rs)) (finiteScript (roundWords rs)) →
    ∃ t : State, core.run (2 + roundSteps rs) s = .next t ∧ t.fsm = .poll ∧ t.respValid = false ∧
      t.statusQ = s.statusQ ∧ t.cwQ = s.cwQ ∧
      busAccesses t.trace = busAccesses s.trace ++
        [.write8 s.params.cmdAddr d.cmd, .write4 s.params.ctrlAddr d.ctrl] ++ roundAccesses s.params rs

/-- R156: if no status read ever shows busy clear and the host never asserts `rst`, the block stays in POLL and DRAIN
for any number of steps and answers nothing. No status read shows busy clear, for one, under a scripted controller
(R43) whose infinite sequence `S` has busy set in every word. -/
def Obligations.HangNeverEnds : Prop :=
  (∀ s : State, s.fsm = .poll ∨ s.fsm = .drain → paramsLegal s.params = true → (∀ n, NoReset n s) →
    BusyNeverClears s →
    ∀ n, ∃ t : State, core.run n s = .next t ∧ (t.fsm = .poll ∨ t.fsm = .drain) ∧ t.respValid = false ∧
      t.statusQ = s.statusQ ∧ t.cwQ = s.cwQ) ∧
  (∀ (s : State) (S : Nat → Word) (D : Nat → Option Word), (∀ k, busyBit (S k) = true) →
    (∀ n, ScriptedController n s (fun k => some (S k)) D) → BusyNeverClears s)
end

