-- ==== Sys2Proof/Laws/Flags.lean ====
section
/-! SUPPORT. Reading fields out of words that are built by appending or by shifting and ORing, and when the encoder has
a value. -/

namespace Sys2Proof.Machine

/-- A field above the lower part of an append is a field of the upper part. -/
theorem extract_append_high {m n : Nat} (x : BitVec m) (y : BitVec n) {k w : Nat} (h : n ≤ k) :
    (x ++ y).extractLsb' k w = x.extractLsb' (k - n) w := by
  apply BitVec.eq_of_getLsbD_eq
  intro i hi
  simp only [BitVec.getLsbD_extractLsb', BitVec.getLsbD_append, hi, decide_true, Bool.true_and]
  rw [if_neg (by omega)]
  congr 1
  omega

/-- The lowest field of an append is its lower part. -/
theorem extract_append_low {m n : Nat} (x : BitVec m) (y : BitVec n) :
    (x ++ y).extractLsb' 0 n = y := by
  apply BitVec.eq_of_getLsbD_eq
  intro i hi
  simp [BitVec.getLsbD_append, hi]

/-- A bit above the lower part of an append is a bit of the upper part. -/
theorem get_append_high {m n : Nat} (x : BitVec m) (y : BitVec n) {k : Nat} (h : n ≤ k) :
    (x ++ y).getLsbD k = x.getLsbD (k - n) := by
  rw [BitVec.getLsbD_append, if_neg (by omega)]

/-- The lowest bit of an append with one bit below is that bit. -/
theorem get_append_low {m : Nat} (x : BitVec m) (c : Bool) : (x ++ BitVec.ofBool c).getLsbD 0 = c := by
  rw [BitVec.getLsbD_append]
  simp

/-- The bits of a field at its position. -/
theorem fieldAt_getLsbD {w : Nat} (pos : Nat) (v : BitVec w) (i : Nat) :
    (fieldAt pos v).getLsbD i = (decide (i < 32) && (decide (pos ≤ i) && v.getLsbD (i - pos))) := by
  by_cases h : i < 32
  · by_cases h2 : pos ≤ i <;> simp [fieldAt, h, h2]
  · simp [fieldAt, h]

/-- The encoder's value is the OR of its fields (R120). -/
theorem encodeFlags_eq_some {f : OpFlags} {cw : Word} :
    encodeFlags f = some cw ↔ ∃ b, blkSize f.len = some b ∧
      cw = fieldAt 27 (BitVec.ofBool f.slow) ||| fieldAt 24 b ||| fieldAt 22 (BitVec.ofBool f.cenc) |||
        fieldAt 16 (f.post.extractLsb' 0 6) ||| fieldAt 14 (BitVec.ofBool (f.cenc || f.renc)) |||
        fieldAt 13 (BitVec.ofBool f.renc) ||| fieldAt 0 (f.pre.extractLsb' 0 13) := by
  simp [encodeFlags, eq_comm]

/-- The encoder has a value exactly where the block-size map has one (R121). -/
theorem encodeFlags_isSome (f : OpFlags) : (encodeFlags f).isSome = (blkSize f.len).isSome := by
  simp [encodeFlags]

end Sys2Proof.Machine
end

