-- ==== Sys2Proof/Laws/Memory.lean ====
section
/-! SUPPORT. The laws of the response buffer: read after write, what a write leaves alone, and that every write keeps
the canonical form. -/

namespace Sys2Proof.Machine

@[simp] theorem Memory.read_write_same (m : Memory) (a : Nat) (v : Byte) :
    (m.write a v).read a = some v := by
  induction m with
  | nil => simp [Memory.write, Memory.read]
  | cons c m ih =>
    obtain ⟨b, u⟩ := c
    by_cases hlt : a < b
    · simp [Memory.write, Memory.read, hlt]
    · by_cases heq : a = b
      · simp [Memory.write, Memory.read, heq]
      · simp [Memory.write, Memory.read, hlt, heq, Ne.symm heq, ih]

theorem Memory.read_write_other (m : Memory) {a b : Nat} (v : Byte) (h : b ≠ a) :
    (m.write a v).read b = m.read b := by
  induction m with
  | nil => simp [Memory.write, Memory.read, h.symm]
  | cons c m ih =>
    obtain ⟨d, u⟩ := c
    by_cases hlt : a < d
    · simp [Memory.write, Memory.read, hlt, h.symm]
    · by_cases heq : a = d
      · subst heq; simp [Memory.write, Memory.read, h.symm]
      · simp [Memory.write, Memory.read, hlt, heq, ih]

/-- A write adds no offset but its own. -/
theorem Memory.mem_write {m : Memory} {a : Nat} {v : Byte} {c : Host.Cell} (h : c ∈ m.write a v) :
    c = (a, v) ∨ c ∈ m := by
  induction m with
  | nil => simpa [Memory.write] using h
  | cons d m ih =>
    obtain ⟨b, u⟩ := d
    simp only [Memory.write] at h
    split at h
    · simpa using h
    · split at h
      · rcases List.mem_cons.1 h with h | h <;> simp [h]
      · rcases List.mem_cons.1 h with h | h
        · simp [h]
        · rcases ih h with h | h <;> simp [h]

/-- A write keeps the canonical form. -/
theorem Memory.write_wf {m : Memory} (a : Nat) (v : Byte) (h : Memory.wf m) :
    Memory.wf (m.write a v) := by
  induction m with
  | nil => simp [Memory.wf, Memory.write]
  | cons c m ih =>
    obtain ⟨b, u⟩ := c
    obtain ⟨hb, hm⟩ := List.pairwise_cons.1 h
    simp only [Memory.wf, Memory.write] at *
    split
    case isTrue hlt =>
      refine List.pairwise_cons.2 ⟨fun d hd => ?_, h⟩
      rcases List.mem_cons.1 hd with rfl | hd
      · exact hlt
      · exact Nat.lt_trans hlt (hb d hd)
    case isFalse hlt =>
      split
      case isTrue heq => exact List.pairwise_cons.2 ⟨fun d hd => heq ▸ hb d hd, hm⟩
      case isFalse hne =>
        refine List.pairwise_cons.2 ⟨fun d hd => ?_, ih hm⟩
        rcases Memory.mem_write hd with rfl | hd
        · show b < a; omega
        · exact hb d hd

theorem bufStore_wf {m : Memory} (off : Nat) (w : Word) (h : Memory.wf m) :
    Memory.wf (bufStore m off w) :=
  Memory.write_wf _ _ (Memory.write_wf _ _ (Memory.write_wf _ _ (Memory.write_wf _ _ h)))

/-- The four stored bytes, little-endian (R68). -/
theorem read_bufStore (m : Memory) (off : Nat) (w : Word) {k : Nat} (h : k < 4) :
    (bufStore m off w).read (off + k) = some (byteOf w k) := by
  unfold bufStore
  match k, h with
  | 0, _ =>
    rw [Memory.read_write_other _ _ (by omega), Memory.read_write_other _ _ (by omega),
      Memory.read_write_other _ _ (by omega)]
    exact Memory.read_write_same ..
  | 1, _ =>
    rw [Memory.read_write_other _ _ (by omega), Memory.read_write_other _ _ (by omega)]
    exact Memory.read_write_same ..
  | 2, _ =>
    rw [Memory.read_write_other _ _ (by omega)]
    exact Memory.read_write_same ..
  | 3, _ => exact Memory.read_write_same ..

/-- A stored word leaves every byte outside its own four alone. -/
theorem read_bufStore_other (m : Memory) (off : Nat) (w : Word) {a : Nat} (h : a < off ∨ off + 4 ≤ a) :
    (bufStore m off w).read a = m.read a := by
  unfold bufStore
  rw [Memory.read_write_other _ _ (by omega), Memory.read_write_other _ _ (by omega),
    Memory.read_write_other _ _ (by omega), Memory.read_write_other _ _ (by omega)]

/-- A stored word lists no offset but its own four. -/
theorem mem_bufStore {m : Memory} {off : Nat} {w : Word} {c : Host.Cell} (h : c ∈ bufStore m off w) :
    (off ≤ c.1 ∧ c.1 < off + 4) ∨ c ∈ m := by
  rcases Memory.mem_write h with rfl | h
  · left; constructor <;> show _ <;> simp
  rcases Memory.mem_write h with rfl | h
  · left; constructor <;> show _ <;> simp
  rcases Memory.mem_write h with rfl | h
  · left; constructor <;> show _ <;> simp
  rcases Memory.mem_write h with rfl | h
  · left; constructor <;> show _ <;> simp
  exact Or.inr h

end Sys2Proof.Machine
end

