-- ==== Sys2Proof/Laws/State.lean ====
section
/-! SUPPORT. One lemma per field for each operation that updates the state, so that no proof unfolds an update. -/

namespace Sys2Proof.Machine

variable (s : State)

/-! ### beginStep -/

@[simp] theorem beginStep_fsm : (beginStep s).fsm = s.fsm := rfl
@[simp] theorem beginStep_dp : (beginStep s).dp = s.dp := rfl
@[simp] theorem beginStep_statusQ : (beginStep s).statusQ = s.statusQ := rfl
@[simp] theorem beginStep_cwQ : (beginStep s).cwQ = s.cwQ := rfl
@[simp] theorem beginStep_bufOut : (beginStep s).bufOut = none := rfl
@[simp] theorem beginStep_busOut : (beginStep s).busOut = none := rfl
@[simp] theorem beginStep_buffer : (beginStep s).buffer = s.buffer := rfl
@[simp] theorem beginStep_trace : (beginStep s).trace = s.trace := rfl
@[simp] theorem beginStep_params : (beginStep s).params = s.params := rfl
@[simp] theorem beginStep_host : (beginStep s).host = feedTail s.host := rfl
@[simp] theorem beginStep_script : (beginStep s).script = s.script := rfl
@[simp] theorem beginStep_scripts : (beginStep s).scripts = s.scripts := rfl
@[simp] theorem beginStep_statusReads : (beginStep s).statusReads = s.statusReads := rfl
@[simp] theorem beginStep_fifoReads : (beginStep s).fifoReads = s.fifoReads := rfl
@[simp] theorem beginStep_ticks : (beginStep s).ticks = s.ticks + 1 := rfl

/-! ### loadScript -/

@[simp] theorem loadScript_fsm : (loadScript s).fsm = s.fsm := rfl
@[simp] theorem loadScript_dp : (loadScript s).dp = s.dp := rfl
@[simp] theorem loadScript_statusQ : (loadScript s).statusQ = s.statusQ := rfl
@[simp] theorem loadScript_cwQ : (loadScript s).cwQ = s.cwQ := rfl
@[simp] theorem loadScript_bufOut : (loadScript s).bufOut = s.bufOut := rfl
@[simp] theorem loadScript_busOut : (loadScript s).busOut = s.busOut := rfl
@[simp] theorem loadScript_buffer : (loadScript s).buffer = s.buffer := rfl
@[simp] theorem loadScript_trace : (loadScript s).trace = s.trace := rfl
@[simp] theorem loadScript_params : (loadScript s).params = s.params := rfl
@[simp] theorem loadScript_host : (loadScript s).host = s.host := rfl
@[simp] theorem loadScript_script : (loadScript s).script = feedHead Script.free s.scripts := rfl
@[simp] theorem loadScript_scripts : (loadScript s).scripts = feedTail s.scripts := rfl
@[simp] theorem loadScript_statusReads : (loadScript s).statusReads = 0 := rfl
@[simp] theorem loadScript_fifoReads : (loadScript s).fifoReads = 0 := rfl
@[simp] theorem loadScript_ticks : (loadScript s).ticks = s.ticks := rfl

/-! ### access -/

@[simp] theorem access_fsm (a : BusAccess) : (access a s).fsm = s.fsm := rfl
@[simp] theorem access_dp (a : BusAccess) : (access a s).dp = s.dp := rfl
@[simp] theorem access_statusQ (a : BusAccess) : (access a s).statusQ = s.statusQ := rfl
@[simp] theorem access_cwQ (a : BusAccess) : (access a s).cwQ = s.cwQ := rfl
@[simp] theorem access_bufOut (a : BusAccess) : (access a s).bufOut = s.bufOut := rfl
@[simp] theorem access_busOut (a : BusAccess) : (access a s).busOut = some a := rfl
@[simp] theorem access_buffer (a : BusAccess) : (access a s).buffer = s.buffer := rfl
@[simp] theorem access_trace (a : BusAccess) : (access a s).trace = s.trace ++ [.bus a] := rfl
@[simp] theorem access_params (a : BusAccess) : (access a s).params = s.params := rfl
@[simp] theorem access_host (a : BusAccess) : (access a s).host = s.host := rfl
@[simp] theorem access_script (a : BusAccess) : (access a s).script = s.script := rfl
@[simp] theorem access_scripts (a : BusAccess) : (access a s).scripts = s.scripts := rfl
@[simp] theorem access_statusReads (a : BusAccess) : (access a s).statusReads = s.statusReads := rfl
@[simp] theorem access_fifoReads (a : BusAccess) : (access a s).fifoReads = s.fifoReads := rfl
@[simp] theorem access_ticks (a : BusAccess) : (access a s).ticks = s.ticks := rfl

/-! ### writeCommand -/

@[simp] theorem writeCommand_fsm (v : DWord) : (writeCommand v s).fsm = s.fsm := rfl
@[simp] theorem writeCommand_dp (v : DWord) : (writeCommand v s).dp = s.dp := rfl
@[simp] theorem writeCommand_statusQ (v : DWord) : (writeCommand v s).statusQ = s.statusQ := rfl
@[simp] theorem writeCommand_cwQ (v : DWord) : (writeCommand v s).cwQ = s.cwQ := rfl
@[simp] theorem writeCommand_bufOut (v : DWord) : (writeCommand v s).bufOut = s.bufOut := rfl
@[simp] theorem writeCommand_busOut (v : DWord) : (writeCommand v s).busOut = some (.write8 s.params.cmdAddr v) := rfl
@[simp] theorem writeCommand_buffer (v : DWord) : (writeCommand v s).buffer = s.buffer := rfl
@[simp] theorem writeCommand_trace (v : DWord) :
    (writeCommand v s).trace = s.trace ++ [.bus (.write8 s.params.cmdAddr v)] := rfl
@[simp] theorem writeCommand_params (v : DWord) : (writeCommand v s).params = s.params := rfl
@[simp] theorem writeCommand_host (v : DWord) : (writeCommand v s).host = s.host := rfl
@[simp] theorem writeCommand_script (v : DWord) : (writeCommand v s).script = s.script := rfl
@[simp] theorem writeCommand_scripts (v : DWord) : (writeCommand v s).scripts = s.scripts := rfl
@[simp] theorem writeCommand_statusReads (v : DWord) : (writeCommand v s).statusReads = s.statusReads := rfl
@[simp] theorem writeCommand_fifoReads (v : DWord) : (writeCommand v s).fifoReads = s.fifoReads := rfl
@[simp] theorem writeCommand_ticks (v : DWord) : (writeCommand v s).ticks = s.ticks := rfl

/-! ### writeControl -/

@[simp] theorem writeControl_fsm (v : Word) : (writeControl v s).fsm = s.fsm := rfl
@[simp] theorem writeControl_dp (v : Word) : (writeControl v s).dp = s.dp := rfl
@[simp] theorem writeControl_statusQ (v : Word) : (writeControl v s).statusQ = s.statusQ := rfl
@[simp] theorem writeControl_cwQ (v : Word) : (writeControl v s).cwQ = s.cwQ := rfl
@[simp] theorem writeControl_bufOut (v : Word) : (writeControl v s).bufOut = s.bufOut := rfl
@[simp] theorem writeControl_busOut (v : Word) : (writeControl v s).busOut = some (.write4 s.params.ctrlAddr v) := rfl
@[simp] theorem writeControl_buffer (v : Word) : (writeControl v s).buffer = s.buffer := rfl
@[simp] theorem writeControl_trace (v : Word) :
    (writeControl v s).trace = s.trace ++ [.bus (.write4 s.params.ctrlAddr v)] := rfl
@[simp] theorem writeControl_params (v : Word) : (writeControl v s).params = s.params := rfl
@[simp] theorem writeControl_host (v : Word) : (writeControl v s).host = s.host := rfl
@[simp] theorem writeControl_script (v : Word) : (writeControl v s).script = s.script := rfl
@[simp] theorem writeControl_scripts (v : Word) : (writeControl v s).scripts = s.scripts := rfl
@[simp] theorem writeControl_statusReads (v : Word) : (writeControl v s).statusReads = s.statusReads := rfl
@[simp] theorem writeControl_fifoReads (v : Word) : (writeControl v s).fifoReads = s.fifoReads := rfl
@[simp] theorem writeControl_ticks (v : Word) : (writeControl v s).ticks = s.ticks := rfl

/-! ### readControl -/

@[simp] theorem readControl_fsm : (readControl s).fsm = s.fsm := rfl
@[simp] theorem readControl_dp : (readControl s).dp = s.dp := rfl
@[simp] theorem readControl_statusQ : (readControl s).statusQ = s.statusQ := rfl
@[simp] theorem readControl_cwQ : (readControl s).cwQ = s.cwQ := rfl
@[simp] theorem readControl_bufOut : (readControl s).bufOut = s.bufOut := rfl
@[simp] theorem readControl_busOut : (readControl s).busOut = some (.read4 s.params.ctrlAddr (statusWord s)) := rfl
@[simp] theorem readControl_buffer : (readControl s).buffer = s.buffer := rfl
@[simp] theorem readControl_trace :
    (readControl s).trace = s.trace ++ [.bus (.read4 s.params.ctrlAddr (statusWord s))] := rfl
@[simp] theorem readControl_params : (readControl s).params = s.params := rfl
@[simp] theorem readControl_host : (readControl s).host = s.host := rfl
@[simp] theorem readControl_script : (readControl s).script = s.script := rfl
@[simp] theorem readControl_scripts : (readControl s).scripts = s.scripts := rfl
@[simp] theorem readControl_statusReads : (readControl s).statusReads = s.statusReads + 1 := rfl
@[simp] theorem readControl_fifoReads : (readControl s).fifoReads = s.fifoReads := rfl
@[simp] theorem readControl_ticks : (readControl s).ticks = s.ticks := rfl

/-! ### readFifo -/

@[simp] theorem readFifo_fsm : (readFifo s).fsm = s.fsm := rfl
@[simp] theorem readFifo_dp : (readFifo s).dp = s.dp := rfl
@[simp] theorem readFifo_statusQ : (readFifo s).statusQ = s.statusQ := rfl
@[simp] theorem readFifo_cwQ : (readFifo s).cwQ = s.cwQ := rfl
@[simp] theorem readFifo_bufOut : (readFifo s).bufOut = s.bufOut := rfl
@[simp] theorem readFifo_busOut : (readFifo s).busOut = some (.read4 s.params.dataAddr (fifoWord s)) := rfl
@[simp] theorem readFifo_buffer : (readFifo s).buffer = s.buffer := rfl
@[simp] theorem readFifo_trace : (readFifo s).trace = s.trace ++ [.bus (.read4 s.params.dataAddr (fifoWord s))] := rfl
@[simp] theorem readFifo_params : (readFifo s).params = s.params := rfl
@[simp] theorem readFifo_host : (readFifo s).host = s.host := rfl
@[simp] theorem readFifo_script : (readFifo s).script = s.script := rfl
@[simp] theorem readFifo_scripts : (readFifo s).scripts = s.scripts := rfl
@[simp] theorem readFifo_statusReads : (readFifo s).statusReads = s.statusReads := rfl
@[simp] theorem readFifo_fifoReads : (readFifo s).fifoReads = s.fifoReads + 1 := rfl
@[simp] theorem readFifo_ticks : (readFifo s).ticks = s.ticks := rfl

/-! ### bufWrite -/

@[simp] theorem bufWrite_fsm (off : BitVec 15) (w : Word) : (bufWrite off w s).fsm = s.fsm := rfl
@[simp] theorem bufWrite_dp (off : BitVec 15) (w : Word) : (bufWrite off w s).dp = s.dp := rfl
@[simp] theorem bufWrite_statusQ (off : BitVec 15) (w : Word) : (bufWrite off w s).statusQ = s.statusQ := rfl
@[simp] theorem bufWrite_cwQ (off : BitVec 15) (w : Word) : (bufWrite off w s).cwQ = s.cwQ := rfl
@[simp] theorem bufWrite_bufOut (off : BitVec 15) (w : Word) : (bufWrite off w s).bufOut = some ⟨off, w⟩ := rfl
@[simp] theorem bufWrite_busOut (off : BitVec 15) (w : Word) : (bufWrite off w s).busOut = s.busOut := rfl
@[simp] theorem bufWrite_buffer (off : BitVec 15) (w : Word) :
    (bufWrite off w s).buffer = bufStore s.buffer off.toNat w := rfl
@[simp] theorem bufWrite_trace (off : BitVec 15) (w : Word) :
    (bufWrite off w s).trace = s.trace ++ [.buf ⟨off, w⟩] := rfl
@[simp] theorem bufWrite_params (off : BitVec 15) (w : Word) : (bufWrite off w s).params = s.params := rfl
@[simp] theorem bufWrite_host (off : BitVec 15) (w : Word) : (bufWrite off w s).host = s.host := rfl
@[simp] theorem bufWrite_script (off : BitVec 15) (w : Word) : (bufWrite off w s).script = s.script := rfl
@[simp] theorem bufWrite_scripts (off : BitVec 15) (w : Word) : (bufWrite off w s).scripts = s.scripts := rfl
@[simp] theorem bufWrite_statusReads (off : BitVec 15) (w : Word) :
    (bufWrite off w s).statusReads = s.statusReads := rfl
@[simp] theorem bufWrite_fifoReads (off : BitVec 15) (w : Word) : (bufWrite off w s).fifoReads = s.fifoReads := rfl
@[simp] theorem bufWrite_ticks (off : BitVec 15) (w : Word) : (bufWrite off w s).ticks = s.ticks := rfl

/-! ### setCursor -/

@[simp] theorem setCursor_fsm (c : BitVec 15) : (setCursor c s).fsm = s.fsm := rfl
@[simp] theorem setCursor_dp (c : BitVec 15) : (setCursor c s).dp = some { datapath s with cursor := c } := rfl
@[simp] theorem setCursor_statusQ (c : BitVec 15) : (setCursor c s).statusQ = s.statusQ := rfl
@[simp] theorem setCursor_cwQ (c : BitVec 15) : (setCursor c s).cwQ = s.cwQ := rfl
@[simp] theorem setCursor_bufOut (c : BitVec 15) : (setCursor c s).bufOut = s.bufOut := rfl
@[simp] theorem setCursor_busOut (c : BitVec 15) : (setCursor c s).busOut = s.busOut := rfl
@[simp] theorem setCursor_buffer (c : BitVec 15) : (setCursor c s).buffer = s.buffer := rfl
@[simp] theorem setCursor_trace (c : BitVec 15) : (setCursor c s).trace = s.trace := rfl
@[simp] theorem setCursor_params (c : BitVec 15) : (setCursor c s).params = s.params := rfl
@[simp] theorem setCursor_host (c : BitVec 15) : (setCursor c s).host = s.host := rfl
@[simp] theorem setCursor_script (c : BitVec 15) : (setCursor c s).script = s.script := rfl
@[simp] theorem setCursor_scripts (c : BitVec 15) : (setCursor c s).scripts = s.scripts := rfl
@[simp] theorem setCursor_statusReads (c : BitVec 15) : (setCursor c s).statusReads = s.statusReads := rfl
@[simp] theorem setCursor_fifoReads (c : BitVec 15) : (setCursor c s).fifoReads = s.fifoReads := rfl
@[simp] theorem setCursor_ticks (c : BitVec 15) : (setCursor c s).ticks = s.ticks := rfl

/-! ### setFsm -/

@[simp] theorem setFsm_fsm (x : Fsm) : (setFsm x s).fsm = x := rfl
@[simp] theorem setFsm_dp (x : Fsm) : (setFsm x s).dp = s.dp := rfl
@[simp] theorem setFsm_statusQ (x : Fsm) : (setFsm x s).statusQ = s.statusQ := rfl
@[simp] theorem setFsm_cwQ (x : Fsm) : (setFsm x s).cwQ = s.cwQ := rfl
@[simp] theorem setFsm_bufOut (x : Fsm) : (setFsm x s).bufOut = s.bufOut := rfl
@[simp] theorem setFsm_busOut (x : Fsm) : (setFsm x s).busOut = s.busOut := rfl
@[simp] theorem setFsm_buffer (x : Fsm) : (setFsm x s).buffer = s.buffer := rfl
@[simp] theorem setFsm_trace (x : Fsm) : (setFsm x s).trace = s.trace := rfl
@[simp] theorem setFsm_params (x : Fsm) : (setFsm x s).params = s.params := rfl
@[simp] theorem setFsm_host (x : Fsm) : (setFsm x s).host = s.host := rfl
@[simp] theorem setFsm_script (x : Fsm) : (setFsm x s).script = s.script := rfl
@[simp] theorem setFsm_scripts (x : Fsm) : (setFsm x s).scripts = s.scripts := rfl
@[simp] theorem setFsm_statusReads (x : Fsm) : (setFsm x s).statusReads = s.statusReads := rfl
@[simp] theorem setFsm_fifoReads (x : Fsm) : (setFsm x s).fifoReads = s.fifoReads := rfl
@[simp] theorem setFsm_ticks (x : Fsm) : (setFsm x s).ticks = s.ticks := rfl

/-! ### respond -/

@[simp] theorem respond_fsm (st : BitVec 2) (cw : Word) : (respond st cw s).fsm = .resp := rfl
@[simp] theorem respond_dp (st : BitVec 2) (cw : Word) : (respond st cw s).dp = s.dp := rfl
@[simp] theorem respond_statusQ (st : BitVec 2) (cw : Word) : (respond st cw s).statusQ = st := rfl
@[simp] theorem respond_cwQ (st : BitVec 2) (cw : Word) : (respond st cw s).cwQ = cw := rfl
@[simp] theorem respond_bufOut (st : BitVec 2) (cw : Word) : (respond st cw s).bufOut = s.bufOut := rfl
@[simp] theorem respond_busOut (st : BitVec 2) (cw : Word) : (respond st cw s).busOut = s.busOut := rfl
@[simp] theorem respond_buffer (st : BitVec 2) (cw : Word) : (respond st cw s).buffer = s.buffer := rfl
@[simp] theorem respond_trace (st : BitVec 2) (cw : Word) : (respond st cw s).trace = s.trace := rfl
@[simp] theorem respond_params (st : BitVec 2) (cw : Word) : (respond st cw s).params = s.params := rfl
@[simp] theorem respond_host (st : BitVec 2) (cw : Word) : (respond st cw s).host = s.host := rfl
@[simp] theorem respond_script (st : BitVec 2) (cw : Word) : (respond st cw s).script = s.script := rfl
@[simp] theorem respond_scripts (st : BitVec 2) (cw : Word) : (respond st cw s).scripts = s.scripts := rfl
@[simp] theorem respond_statusReads (st : BitVec 2) (cw : Word) : (respond st cw s).statusReads = s.statusReads := rfl
@[simp] theorem respond_fifoReads (st : BitVec 2) (cw : Word) : (respond st cw s).fifoReads = s.fifoReads := rfl
@[simp] theorem respond_ticks (st : BitVec 2) (cw : Word) : (respond st cw s).ticks = s.ticks := rfl

/-! ### raise -/

@[simp] theorem raise_fsm (e : Error) : (raise e s).fsm = .resp := rfl
@[simp] theorem raise_dp (e : Error) : (raise e s).dp = s.dp := rfl
@[simp] theorem raise_statusQ (e : Error) : (raise e s).statusQ = errorCode e := rfl
@[simp] theorem raise_cwQ (e : Error) : (raise e s).cwQ = 0#32 := rfl
@[simp] theorem raise_bufOut (e : Error) : (raise e s).bufOut = s.bufOut := rfl
@[simp] theorem raise_busOut (e : Error) : (raise e s).busOut = s.busOut := rfl
@[simp] theorem raise_buffer (e : Error) : (raise e s).buffer = s.buffer := rfl
@[simp] theorem raise_trace (e : Error) : (raise e s).trace = s.trace := rfl
@[simp] theorem raise_params (e : Error) : (raise e s).params = s.params := rfl
@[simp] theorem raise_host (e : Error) : (raise e s).host = s.host := rfl
@[simp] theorem raise_script (e : Error) : (raise e s).script = s.script := rfl
@[simp] theorem raise_scripts (e : Error) : (raise e s).scripts = s.scripts := rfl
@[simp] theorem raise_statusReads (e : Error) : (raise e s).statusReads = s.statusReads := rfl
@[simp] theorem raise_fifoReads (e : Error) : (raise e s).fifoReads = s.fifoReads := rfl
@[simp] theorem raise_ticks (e : Error) : (raise e s).ticks = s.ticks := rfl

/-! ### takeResponse -/

@[simp] theorem takeResponse_fsm : (takeResponse s).fsm = .idle := rfl
@[simp] theorem takeResponse_dp : (takeResponse s).dp = s.dp := rfl
@[simp] theorem takeResponse_statusQ : (takeResponse s).statusQ = s.statusQ := rfl
@[simp] theorem takeResponse_cwQ : (takeResponse s).cwQ = s.cwQ := rfl
@[simp] theorem takeResponse_bufOut : (takeResponse s).bufOut = s.bufOut := rfl
@[simp] theorem takeResponse_busOut : (takeResponse s).busOut = s.busOut := rfl
@[simp] theorem takeResponse_buffer : (takeResponse s).buffer = s.buffer := rfl
@[simp] theorem takeResponse_trace : (takeResponse s).trace = s.trace := rfl
@[simp] theorem takeResponse_params : (takeResponse s).params = s.params := rfl
@[simp] theorem takeResponse_host : (takeResponse s).host = s.host := rfl
@[simp] theorem takeResponse_script : (takeResponse s).script = s.script := rfl
@[simp] theorem takeResponse_scripts : (takeResponse s).scripts = s.scripts := rfl
@[simp] theorem takeResponse_statusReads : (takeResponse s).statusReads = s.statusReads := rfl
@[simp] theorem takeResponse_fifoReads : (takeResponse s).fifoReads = s.fifoReads := rfl
@[simp] theorem takeResponse_ticks : (takeResponse s).ticks = s.ticks := rfl

/-! ### resetBlock -/

@[simp] theorem resetBlock_fsm : (resetBlock s).fsm = .idle := rfl
@[simp] theorem resetBlock_dp : (resetBlock s).dp = none := rfl
@[simp] theorem resetBlock_statusQ : (resetBlock s).statusQ = 0#2 := rfl
@[simp] theorem resetBlock_cwQ : (resetBlock s).cwQ = 0#32 := rfl
@[simp] theorem resetBlock_bufOut : (resetBlock s).bufOut = none := rfl
@[simp] theorem resetBlock_busOut : (resetBlock s).busOut = none := rfl
@[simp] theorem resetBlock_buffer : (resetBlock s).buffer = s.buffer := rfl
@[simp] theorem resetBlock_trace : (resetBlock s).trace = s.trace := rfl
@[simp] theorem resetBlock_params : (resetBlock s).params = s.params := rfl
@[simp] theorem resetBlock_host : (resetBlock s).host = s.host := rfl
@[simp] theorem resetBlock_script : (resetBlock s).script = s.script := rfl
@[simp] theorem resetBlock_scripts : (resetBlock s).scripts = s.scripts := rfl
@[simp] theorem resetBlock_statusReads : (resetBlock s).statusReads = s.statusReads := rfl
@[simp] theorem resetBlock_fifoReads : (resetBlock s).fifoReads = s.fifoReads := rfl
@[simp] theorem resetBlock_ticks : (resetBlock s).ticks = s.ticks := rfl

end Sys2Proof.Machine
end

