-- ==== Sys2Proof/Laws/Ops.lean ====
section
/-! SUPPORT. What each shared operation can do, said once: the guards, the start of a transaction, the feeds, and the
datapath as a step reads it. -/

namespace Sys2Proof.Machine

variable {s t : State}

/-- A guarded effect answers next only under a legal configuration, and then as the effect does. -/
theorem requireLegal_eq_next {k : Host.Outcome State Fault Refusal} :
    requireLegal s k = .next t ↔ paramsLegal s.params = true ∧ k = .next t := by
  unfold requireLegal
  split <;> simp_all

theorem requireLegal_of_legal (h : paramsLegal s.params = true) (k : Host.Outcome State Fault Refusal) :
    requireLegal s k = k := if_pos h

theorem requireLegal_of_illegal (h : paramsLegal s.params = false) (k : Host.Outcome State Fault Refusal) :
    requireLegal s k = .refused .illegalConfiguration := if_neg (by simp [h])

/-- `start` answers next only under a legal configuration, and then with the latched registers in WR_CMD and the
request's script in play. -/
theorem start_eq_next {c : DWord} {cw len : Word} {k : Sink} :
    start c cw len k s = .next t ↔ paramsLegal s.params = true ∧
      t = { loadScript s with
        fsm := .wrCmd
        dp := some
          { cmd := c, ctrl := controlValue cw, len := len.extractLsb' 0 15, cursor := 0#15, sink := k } } := by
  unfold start
  rw [requireLegal_eq_next, Host.Outcome.next.injEq, eq_comm (b := t)]

theorem whenIdle_of_idle (h : s.fsm = .idle) (k : Host.Outcome State Fault Refusal) : whenIdle s k = k := by
  simp [whenIdle, h]

/-- An offered request that answers next is accepted in IDLE, or has no effect. -/
theorem whenIdle_eq_next {k : Host.Outcome State Fault Refusal} (h : whenIdle s k = .next t) :
    (s.fsm = .idle ∧ k = .next t) ∨ (s.fsm ≠ .idle ∧ t = s) := by
  cases hf : s.fsm <;> simp [whenIdle, hf] at h <;> simp [h]

@[simp] theorem sampleInputs_script (inp : HostInputs) (q c : List HostInputs)
    (h : s.host = ⟨inp :: q, c⟩) : sampleInputs s = inp := by simp [sampleInputs, h, feedHead]

@[simp] theorem feedTail_pending {α : Type} (x : α) (q c : List α) :
    feedTail (⟨x :: q, c⟩ : Feed α) = ⟨q, c⟩ := rfl

/-- Where the request's script gives the coming status word, the read returns it. -/
theorem statusWord_of_nth {w : Word} (h : feedNth s.script.status s.statusReads = some w) : statusWord s = w := by
  simp [statusWord, h]

/-- Where the request's script gives the coming FIFO word, the read returns it. -/
theorem fifoWord_of_nth {w : Word} (h : feedNth s.script.fifo s.fifoReads = some w) : fifoWord s = w := by
  simp [fifoWord, h]

/-- The first values of a feed are its pending ones. -/
theorem feedNth_pending {α : Type} {f : Feed α} {k : Nat} {x : α} (h : f.pending[k]? = some x) :
    feedNth f k = some x := by
  simp [feedNth, h]

/-- A value taken from a script with a cycle is one of the script's. -/
theorem feedHead_mem {α : Type} (free : α) {f : Feed α} (h : f.cycle ≠ []) :
    feedHead free f ∈ f.pending ++ f.cycle := by
  obtain ⟨p, c⟩ := f
  cases p with
  | cons x xs => simp [feedHead]
  | nil =>
    cases c with
    | nil => exact absurd rfl h
    | cons x xs => simp [feedHead]

/-- Using a script up keeps its cycle. -/
@[simp] theorem feedTail_cycle {α : Type} (f : Feed α) : (feedTail f).cycle = f.cycle := by
  obtain ⟨p, c⟩ := f
  cases p <;> cases c <;> rfl

/-- Using a script up adds no value to it. -/
theorem mem_feedTail {α : Type} {f : Feed α} {x : α}
    (h : x ∈ (feedTail f).pending ++ (feedTail f).cycle) : x ∈ f.pending ++ f.cycle := by
  obtain ⟨p, c⟩ := f
  cases p <;> cases c <;> (simp_all [feedTail]; try tauto)

/-- Present datapath registers are read as they are. -/
theorem datapath_of_some {d : Datapath} (h : s.dp = some d) : datapath s = d := by simp [datapath, h]

@[simp] theorem datapath_readFifo (s : State) : datapath (readFifo s) = datapath s := rfl
@[simp] theorem datapath_readControl (s : State) : datapath (readControl s) = datapath s := rfl
@[simp] theorem drainTarget_readFifo (s : State) : drainTarget (readFifo s) = drainTarget s := rfl

theorem wordFits_iff (d : Datapath) : wordFits d = true ↔ d.cursor.toNat < d.len.toNat := by
  simp [wordFits, BitVec.lt_def]

/-- A DRAIN step stores at `off` exactly when the word fits, the sink is the caller's, and `off` is the cursor. -/
theorem drainTarget_eq_some {off : BitVec 15} : drainTarget s = some off ↔
    (datapath s).cursor.toNat < (datapath s).len.toNat ∧ (datapath s).sink = .caller ∧
      off = (datapath s).cursor := by
  rw [← wordFits_iff]
  unfold drainTarget
  split
  · cases h : (datapath s).sink <;> simp [*, eq_comm]
  · simp [*]

end Sys2Proof.Machine
end

