-- ==== Sys2Proof/Laws/PerInstr.lean ====
section
/-! SUPPORT. Facts made per request: the low two bits of a request's word are its code in the opcode table (R90). -/

namespace Sys2Proof.Laws.OpField

/-- `match` and `mask` of the table's row: bits 1:0 of the word are the row's code. -/
def Statement (i : Instr) : Prop :=
  (Sys2Proof.encode i).extractLsb' 0 2 =
    match i with
    | .execute _ _ _ => 0b00#2
    | .reset _ => 0b01#2
    | .encode _ => 0b10#2

theorem execute (cmd : DWord) (cmdLen : Word) (f : OpFlags) : Statement (.execute cmd cmdLen f) :=
  Machine.extract_append_low _ _

theorem reset (scratchOk : Bool) : Statement (.reset scratchOk) := Machine.extract_append_low _ _

theorem encode (f : OpFlags) : Statement (.encode f) := Machine.extract_append_low _ _

end Sys2Proof.Laws.OpField
end

