-- ==== Sys2Proof/Laws/Step.lean ====
section
/-! SUPPORT. What one step of the machine can do, said once: `step_cases` lists every way a step answers next, and the
lemmas after it run a step forward. -/

namespace Sys2Proof.Machine

variable {s t : State}

/-- What an offered request can do: nothing outside IDLE; in IDLE it is answered at once or starts a transaction. -/
inductive ExecCase (s t : State) : Prop where
  | busy (busy : s.fsm ≠ .idle) (next : t = s)
  | answered (idle : s.fsm = .idle) (st : BitVec 2) (cw : Word) (next : t = respond st cw s)
      (code : (st = statusOk ∨ ∃ e, st = errorCode e) ∧ (st ≠ statusOk → cw = 0#32))
  | started (idle : s.fsm = .idle) (legal : paramsLegal s.params = true) (c : DWord) (cw : Word) (k : Sink)
      (f : OpFlags) (flags : encodeFlags f = some cw)
      (scratch : k = .scratch → f = resetFlags s.params ∧ c = s.params.resetCmd)
      (next : t = { loadScript s with
        fsm := .wrCmd
        dp := some
          { cmd := c, ctrl := controlValue cw, len := f.len.extractLsb' 0 15, cursor := 0#15, sink := k } })

theorem ExecCase.of_raise (h : s.fsm = .idle) (e : Error) (ht : .next (raise e s) = (.next t : Host.Outcome State Fault Refusal)) :
    ExecCase s t :=
  .answered h (errorCode e) 0#32 (by simpa [raise] using ht.symm) ⟨.inr ⟨e, rfl⟩, fun _ => rfl⟩

theorem exec_cases {i : Instr} (h : exec i s = .next t) : ExecCase s t := by
  cases i with
  | execute cmd n f =>
    rcases whenIdle_eq_next (by simpa [exec, execExecute] using h) with ⟨hi, h⟩ | ⟨hb, rfl⟩
    · split at h
      · split at h
        · obtain ⟨hl, rfl⟩ := start_eq_next.1 h
          exact .started hi hl _ _ .caller f ‹_› (by simp) rfl
        · exact .of_raise hi _ h
      · exact .of_raise hi _ h
    · exact .busy hb rfl
  | reset ok =>
    rcases whenIdle_eq_next (by simpa [exec, execReset] using h) with ⟨hi, h⟩ | ⟨hb, rfl⟩
    · split at h
      · split at h
        · obtain ⟨hl, rfl⟩ := start_eq_next.1 h
          exact .started hi hl _ _ .scratch _ ‹_› (fun _ => ⟨rfl, rfl⟩) rfl
        · exact .of_raise hi _ h
      · exact .of_raise hi _ h
    · exact .busy hb rfl
  | encode f =>
    rcases whenIdle_eq_next (by simpa [exec, execEncode] using h) with ⟨hi, h⟩ | ⟨hb, rfl⟩
    · split at h
      · exact .answered hi statusOk _ (by simpa using h.symm) ⟨.inl rfl, fun h => absurd rfl h⟩
      · exact .of_raise hi _ h
    · exact .busy hb rfl

/-- Every way a step answers next. -/
inductive StepCase (s t : State) : Prop where
  | reset (rst : (sampleInputs s).rst = true) (next : t = resetBlock (beginStep s))
  | waiting (rst : (sampleInputs s).rst = false) (fsm : s.fsm = .idle)
      (quiet : (sampleInputs s).reqValid = false) (next : t = beginStep s)
  | request (rst : (sampleInputs s).rst = false) (fsm : s.fsm = .idle)
      (valid : (sampleInputs s).reqValid = true) (i : Instr)
      (decoded : decodeRequest (sampleInputs s).req = .ok i) (next : exec i (beginStep s) = .next t)
  | reserved (rst : (sampleInputs s).rst = false) (fsm : s.fsm = .idle)
      (valid : (sampleInputs s).reqValid = true) (e : DecodeError)
      (decoded : decodeRequest (sampleInputs s).req = .error e)
      (next : t = raise .invalidArgument (beginStep s))
  | wrCmd (rst : (sampleInputs s).rst = false) (fsm : s.fsm = .wrCmd) (legal : paramsLegal s.params = true)
      (next : t = setFsm .wrCtrl (writeCommand (datapath (beginStep s)).cmd (beginStep s)))
  | wrCtrl (rst : (sampleInputs s).rst = false) (fsm : s.fsm = .wrCtrl) (legal : paramsLegal s.params = true)
      (next : t = setFsm .poll (writeControl (datapath (beginStep s)).ctrl (beginStep s)))
  | poll (rst : (sampleInputs s).rst = false) (fsm : s.fsm = .poll) (legal : paramsLegal s.params = true)
      (next : t = pollBranch (statusWord (beginStep s)) (readControl (beginStep s)))
  | drain (rst : (sampleInputs s).rst = false) (fsm : s.fsm = .drain) (legal : paramsLegal s.params = true)
      (next : t = setFsm .poll (storeOrDiscard (fifoWord (beginStep s)) (readFifo (beginStep s))))
  | held (rst : (sampleInputs s).rst = false) (fsm : s.fsm = .resp)
      (notReady : (sampleInputs s).respReady = false) (next : t = beginStep s)
  | taken (rst : (sampleInputs s).rst = false) (fsm : s.fsm = .resp)
      (ready : (sampleInputs s).respReady = true) (next : t = setFsm .idle (beginStep s))

/-! ### One step forward -/

theorem step_of_rst (h : (sampleInputs s).rst = true) : step s = .next (resetBlock (beginStep s)) := by
  simp [step, offered, busyStep, h]

theorem step_of_busy (hr : (sampleInputs s).rst = false) (hf : s.fsm ≠ .idle) :
    step s = busyStep (sampleInputs s) (beginStep s) := by
  simp [step, offered, hr, hf]

theorem step_of_quiet (hr : (sampleInputs s).rst = false) (hf : s.fsm = .idle)
    (hv : (sampleInputs s).reqValid = false) : step s = .next (beginStep s) := by
  simp [step, offered, busyStep, hr, hf, hv]

theorem step_of_request (hr : (sampleInputs s).rst = false) (hf : s.fsm = .idle)
    (hv : (sampleInputs s).reqValid = true) :
    step s = match decodeRequest (sampleInputs s).req with
      | .ok i => exec i (beginStep s)
      | .error e => rejectRequest e (beginStep s) := by
  simp only [step, offered, hr, hf, hv, beginStep_fsm]
  rfl

theorem step_of_wrCmd (hr : (sampleInputs s).rst = false) (hf : s.fsm = .wrCmd)
    (hl : paramsLegal s.params = true) :
    step s = .next (setFsm .wrCtrl (writeCommand (datapath (beginStep s)).cmd (beginStep s))) := by
  rw [step_of_busy hr (by simp [hf])]
  simp [busyStep, hr, hf, wrCmdStep, requireLegal, hl]

theorem step_of_wrCtrl (hr : (sampleInputs s).rst = false) (hf : s.fsm = .wrCtrl)
    (hl : paramsLegal s.params = true) :
    step s = .next (setFsm .poll (writeControl (datapath (beginStep s)).ctrl (beginStep s))) := by
  rw [step_of_busy hr (by simp [hf])]
  simp [busyStep, hr, hf, wrCtrlStep, requireLegal, hl]

theorem step_of_poll (hr : (sampleInputs s).rst = false) (hf : s.fsm = .poll)
    (hl : paramsLegal s.params = true) :
    step s = .next (pollBranch (statusWord (beginStep s)) (readControl (beginStep s))) := by
  rw [step_of_busy hr (by simp [hf])]
  simp [busyStep, hr, hf, pollStep, requireLegal, hl]

theorem step_of_drain (hr : (sampleInputs s).rst = false) (hf : s.fsm = .drain)
    (hl : paramsLegal s.params = true) :
    step s = .next (setFsm .poll (storeOrDiscard (fifoWord (beginStep s)) (readFifo (beginStep s)))) := by
  rw [step_of_busy hr (by simp [hf])]
  simp [busyStep, hr, hf, drainStep, requireLegal, hl]

theorem step_of_resp (hr : (sampleInputs s).rst = false) (hf : s.fsm = .resp) :
    step s = .next (if (sampleInputs s).respReady then setFsm .idle (beginStep s) else beginStep s) := by
  rw [step_of_busy hr (by simp [hf])]
  simp [busyStep, hr, hf, respStep, takeResponse]

theorem step_of_illegal (hr : (sampleInputs s).rst = false) (hl : paramsLegal s.params = false)
    (hf : s.fsm = .wrCmd ∨ s.fsm = .wrCtrl ∨ s.fsm = .poll ∨ s.fsm = .drain) :
    step s = .refused .illegalConfiguration := by
  rcases hf with hf | hf | hf | hf <;>
    (rw [step_of_busy hr (by simp [hf])]
     simp [busyStep, hr, hf, wrCmdStep, wrCtrlStep, pollStep, drainStep, requireLegal, hl])

theorem step_of_reserved (hr : (sampleInputs s).rst = false) (hf : s.fsm = .reserved6 ∨ s.fsm = .reserved7) :
    step s = .fault .unreachableState := by
  rcases hf with hf | hf <;> (rw [step_of_busy hr (by simp [hf])]; simp [busyStep, hr, hf])

/-! ### One step back -/

theorem next_inj (h : (.next s : Host.Outcome State Fault Refusal) = .next t) : t = s :=
  (Host.Outcome.next.inj h).symm

theorem step_cases (h : step s = .next t) : StepCase s t := by
  cases hr : (sampleInputs s).rst with
  | true => exact .reset hr (next_inj (step_of_rst hr ▸ h))
  | false =>
    cases hf : s.fsm with
    | idle =>
      cases hv : (sampleInputs s).reqValid with
      | false => exact .waiting hr hf hv (next_inj (step_of_quiet hr hf hv ▸ h))
      | true =>
        rw [step_of_request hr hf hv] at h
        cases hd : decodeRequest (sampleInputs s).req with
        | ok i => exact .request hr hf hv i hd (by simpa [hd] using h)
        | error e => exact .reserved hr hf hv e hd (by simpa [hd, rejectRequest] using h.symm)
    | wrCmd =>
      cases hl : paramsLegal s.params with
      | true => exact .wrCmd hr hf hl (next_inj (step_of_wrCmd hr hf hl ▸ h))
      | false => simp [step_of_illegal hr hl (by simp [hf])] at h
    | wrCtrl =>
      cases hl : paramsLegal s.params with
      | true => exact .wrCtrl hr hf hl (next_inj (step_of_wrCtrl hr hf hl ▸ h))
      | false => simp [step_of_illegal hr hl (by simp [hf])] at h
    | poll =>
      cases hl : paramsLegal s.params with
      | true => exact .poll hr hf hl (next_inj (step_of_poll hr hf hl ▸ h))
      | false => simp [step_of_illegal hr hl (by simp [hf])] at h
    | drain =>
      cases hl : paramsLegal s.params with
      | true => exact .drain hr hf hl (next_inj (step_of_drain hr hf hl ▸ h))
      | false => simp [step_of_illegal hr hl (by simp [hf])] at h
    | resp =>
      cases hy : (sampleInputs s).respReady with
      | false => exact .held hr hf hy (by simpa [step_of_resp hr hf, hy] using h.symm)
      | true => exact .taken hr hf hy (by simpa [step_of_resp hr hf, hy] using h.symm)
    | reserved6 => simp [step_of_reserved hr (.inl hf)] at h
    | reserved7 => simp [step_of_reserved hr (.inr hf)] at h

/-! ### The branch of POLL and the drainer -/

/-- What a poll branches to. -/
theorem pollBranch_fsm (w : Word) (s : State) :
    (pollBranch w s).fsm =
      if busyBit w then (if dataReadyBit w then .drain else .poll) else .resp := by
  unfold pollBranch
  split <;> [(split <;> rfl); rfl]

/-- A poll's branch: the answer when busy is clear, else only the FSM state moves. -/
theorem pollBranch_cases (w : Word) (s : State) :
    (busyBit w = false ∧ pollBranch w s = respond statusOk (datapath s).ctrl s) ∨
    (busyBit w = true ∧ dataReadyBit w = true ∧ pollBranch w s = setFsm .drain s) ∨
    (busyBit w = true ∧ dataReadyBit w = false ∧ pollBranch w s = setFsm .poll s) := by
  unfold pollBranch
  cases busyBit w <;> cases dataReadyBit w <;> simp

/-- A DRAIN step's word is stored for the caller, counted for the scratch sink, or discarded. -/
theorem storeOrDiscard_cases (w : Word) (s : State) :
    (drainTarget s = some (datapath s).cursor ∧ wordFits (datapath s) = true ∧ (datapath s).sink = .caller ∧
      storeOrDiscard w s = setCursor ((datapath s).cursor + 4#15) (bufWrite (datapath s).cursor w s)) ∨
    (drainTarget s = none ∧ wordFits (datapath s) = true ∧ (datapath s).sink = .scratch ∧
      storeOrDiscard w s = setCursor ((datapath s).cursor + 4#15) s) ∨
    (drainTarget s = none ∧ wordFits (datapath s) = false ∧ storeOrDiscard w s = s) := by
  unfold storeOrDiscard
  cases hw : wordFits (datapath s) <;> cases hk : (datapath s).sink <;> simp [drainTarget, hw, hk]

/-- What a DRAIN step's word never touches. -/
theorem storeOrDiscard_frame (w : Word) (s : State) :
    (storeOrDiscard w s).fsm = s.fsm ∧ (storeOrDiscard w s).statusQ = s.statusQ ∧
      (storeOrDiscard w s).cwQ = s.cwQ ∧ (storeOrDiscard w s).busOut = s.busOut ∧
      (storeOrDiscard w s).params = s.params ∧ (storeOrDiscard w s).host = s.host ∧
      (storeOrDiscard w s).script = s.script ∧ (storeOrDiscard w s).scripts = s.scripts ∧
      (storeOrDiscard w s).statusReads = s.statusReads ∧ (storeOrDiscard w s).fifoReads = s.fifoReads ∧
      (storeOrDiscard w s).ticks = s.ticks := by
  rcases storeOrDiscard_cases w s with ⟨_, _, _, h⟩ | ⟨_, _, _, h⟩ | ⟨_, _, h⟩ <;> simp [h]

end Sys2Proof.Machine
end

