-- ==== Sys2Proof/Laws/Run.lean ====
section
/-! SUPPORT. Runs of the machine, and how a premise on a run is met by data in its first state: a script replayed at every
request is a scripted controller (R43), and a host script without `rst` is a run without it. -/

namespace Sys2Proof.Machine

variable {s t : State}

theorem run_zero (s : State) : core.run 0 s = .next s := rfl

/-- One step, then the rest. -/
theorem run_succ (n : Nat) (h : step s = .next t) : core.run (n + 1) s = core.run n t := by
  simp [Host.Core.run, core, h]

/-- A run that answers made its first step. -/
theorem run_succ_eq_next {n : Nat} (h : core.run (n + 1) s = .next t) :
    ∃ u : State, step s = .next u ∧ core.run n u = .next t := by
  cases hs : step s with
  | next u => exact ⟨u, rfl, run_succ n hs ▸ h⟩
  | fault r => simp [Host.Core.run, core, hs] at h
  | refused r => simp [Host.Core.run, core, hs] at h

/-- A run of `n` steps, then one of `m`. -/
theorem run_add {n : Nat} (m : Nat) (h : core.run n s = .next t) : core.run (n + m) s = core.run m t := by
  induction n generalizing s with
  | zero =>
    obtain rfl := next_inj h
    simp
  | succ n ih =>
    obtain ⟨u, hs, hu⟩ := run_succ_eq_next h
    rw [Nat.add_right_comm, run_succ _ hs, ih hu]

/-- What every step keeps, every run keeps. -/
theorem run_invariant {P : State → Prop} (keep : ∀ {s t : State}, P s → step s = .next t → P t) {n : Nat}
    (hs : P s) (h : core.run n s = .next t) : P t := by
  induction n generalizing s with
  | zero => exact next_inj h ▸ hs
  | succ n ih =>
    obtain ⟨u, hu, ht⟩ := run_succ_eq_next h
    exact ih (keep hs hu) ht

/-- A premise without `rst` goes on after a part of the run. -/
theorem NoReset.shift {n m : Nat} (h : NoReset (n + m) s) (ht : core.run n s = .next t) : NoReset m t :=
  fun k hk u hu => h (n + k) (by omega) u (run_add k ht ▸ hu)

/-- A scripted controller goes on after a part of the run. -/
theorem ScriptedController.shift {n m : Nat} {S D : Nat → Option Word} (h : ScriptedController (n + m) s S D)
    (ht : core.run n s = .next t) : ScriptedController m t S D :=
  fun k hk u hu => h (n + k) (by omega) u (run_add k ht ▸ hu)

/-- Every step uses up one sample of the host's script. -/
theorem step_host (h : step s = .next t) : t.host = feedTail s.host := by
  cases step_cases h with
  | request _ _ _ _ _ next => cases exec_cases next <;> simp_all
  | poll _ _ _ next =>
    rcases pollBranch_cases (statusWord (beginStep s)) (readControl (beginStep s)) with
      ⟨_, h⟩ | ⟨_, _, h⟩ | ⟨_, _, h⟩ <;> simp [next, h]
  | drain _ _ _ next =>
    obtain ⟨_, _, _, _, _, h, _⟩ := storeOrDiscard_frame (fifoWord (beginStep s)) (readFifo (beginStep s))
    simp [next, h]
  | _ => simp_all

/-- A host script that never asserts `rst` and never ends. -/
theorem noReset_of_feed (hc : s.host.cycle ≠ []) (hr : ∀ inp ∈ s.host.pending ++ s.host.cycle, inp.rst = false)
    (n : Nat) : NoReset n s := by
  intro k _ t ht
  have := run_invariant (P := fun s => s.host.cycle ≠ [] ∧ ∀ inp ∈ s.host.pending ++ s.host.cycle, inp.rst = false)
    (fun {s t} hs h => by
      rw [step_host h]
      exact ⟨by simpa using hs.1, fun inp hi => hs.2 inp (mem_feedTail hi)⟩) ⟨hc, hr⟩ ht
  exact this.2 _ (feedHead_mem _ this.1)

/-- The script `sc` is in play in a transaction, and comes into play at every later acceptance. -/
structure Replays (sc : Script) (s : State) : Prop where
  now : inTransaction s.fsm = true → s.script = sc
  later : s.scripts = ⟨[], [sc]⟩

theorem Replays.step {sc : Script} (hs : Replays sc s) (h : Machine.step s = .next t) : Replays sc t := by
  obtain ⟨now, later⟩ := hs
  cases step_cases h with
  | request _ idle _ _ _ next =>
    cases exec_cases next with
    | started _ _ _ _ _ _ _ _ next => subst next; constructor <;> simp [later, feedHead, feedTail]
    | answered _ _ _ next => subst next; constructor <;> simp [later, inTransaction]
    | busy _ next => subst next; constructor <;> simp_all
  | poll _ fsm _ next =>
    rcases pollBranch_cases (statusWord (beginStep s)) (readControl (beginStep s)) with
      ⟨_, h⟩ | ⟨_, _, h⟩ | ⟨_, _, h⟩ <;>
    · rw [next, h]
      constructor <;> simp_all [inTransaction]
  | drain _ fsm _ next =>
    obtain ⟨_, _, _, _, _, _, h, h', _⟩ := storeOrDiscard_frame (fifoWord (beginStep s)) (readFifo (beginStep s))
    rw [next]
    constructor <;> simp_all [inTransaction]
  | _ => constructor <;> simp_all [inTransaction]

/-- A script replayed at every request is a scripted controller of R43, for as long as the machine runs. -/
theorem Replays.scriptedController {sc : Script} (hs : Replays sc s) (n : Nat) :
    ScriptedController n s (feedNth sc.status) (feedNth sc.fifo) := by
  intro k _ t ht
  have h := run_invariant (fun hs h => Replays.step hs h) hs ht
  refine ⟨fun hf w hw => statusWord_of_nth ?_, fun hf w hw => fifoWord_of_nth ?_⟩ <;>
    simpa [h.now (by simp [hf, inTransaction])] using hw

/-- A finite script is played by the feeds that hold it. -/
theorem ScriptedController.finite {n : Nat} {S D : Feed Word} {ss ds : List Word}
    (h : ScriptedController n s (feedNth S) (feedNth D)) (hS : S.pending = ss) (hD : D.pending = ds) :
    ScriptedController n s (finiteScript ss) (finiteScript ds) := by
  subst hS hD
  exact fun k hk t ht =>
    ⟨fun hf w hw => (h k hk t ht).1 hf w (feedNth_pending hw),
      fun hf w hw => (h k hk t ht).2 hf w (feedNth_pending hw)⟩

end Sys2Proof.Machine
end

