-- ==== Sys2Proof/Tests/Slice0.lean ====
section
/-! SUPPORT. Tests of the model against the worked examples and vectors of 95_test_vectors.md, decodings of words written
out from R90 and R21, the ill-formed requests the well-formedness check refuses, and for every statement with premises a
concrete state and operands that meet them. -/

namespace Sys2Proof.Tests

open Sys2Proof Sys2Proof.Machine

/-! ### Small states -/

/-- Every input of the host's ports low. -/
def low : HostInputs := ⟨false, false, ⟨0#2, 0#64, 0#32, 0#32, 0#32, 0#32, false, false, false, false⟩, false⟩

/-- The parameter set GK of 93_implementation_defined.md G4, at a set of candidate addresses of its G2. -/
def gk : Params where
  busAddrW := 32
  cmdAddr := 0x10164008
  ctrlAddr := 0x10164004
  dataAddr := 0x1016401C
  resetCmd := 0x9F#64
  resetPre := 0#13
  resetPost := 0x18#6
  resetCenc := false
  resetRenc := false
  resetSlow := true

/-- GK with the Control register inside the Command register, against R61. -/
def overlapping : Params := { gk with ctrlAddr := 0x1016400C }

/-- The block after reset, under GK, with low host inputs for ever. -/
def base : State := { State.reset with params := gk, host := ⟨[], [low]⟩ }

/-- `s` with the inputs `inp` in its coming step and low inputs after it. -/
def withInputs (inp : HostInputs) (s : State) : State := { s with host := ⟨[inp], [low]⟩ }

/-- `s` with the request `r` offered in its coming step. -/
def offering (r : Request) (s : State) : State := withInputs { low with reqValid := true, req := r } s

/-- `s` with the request of a line of R104's text form offered in its coming step. -/
def offeringLine (line : String) (s : State) : State :=
  match parseRequest line with
  | some i => offering i.request s
  | none => s

/-- A request of the reserved code 11. -/
def reservedRequest : Request := { low.req with op := 3#2 }

/-- The datapath of the identify request of L1-6. -/
def identify : Datapath := ⟨0x90#64, 0xA7000000#32, 4#15, 0#15, .caller⟩

/-- The datapath of RESET under GK (R180). -/
def discarding : Datapath := ⟨0x9F#64, 0xAD180000#32, 0x2000#15, 0#15, .scratch⟩

/-- The block in FSM state `x` with datapath `d`, and a controller that answers `S` and `D`. -/
def busy (x : Fsm) (d : Datapath) (S D : List Word) : State :=
  { base with fsm := x, dp := some d, script := ⟨⟨S, []⟩, ⟨D, []⟩⟩ }

/-- The state after one step. -/
def after (s : State) : State :=
  match step s with
  | .next t => t
  | .fault _ => s
  | .refused _ => s

/-- The step answers a next state. -/
def runs (s : State) : Bool :=
  match step s with
  | .next _ => true
  | .fault _ => false
  | .refused _ => false

theorem step_of_runs {s : State} (h : runs s = true) : step s = .next (after s) := by
  unfold runs at h
  unfold after
  split at h
  · rename_i t ht
    rw [ht]
  · cases h
  · cases h

/-! ### Well-formedness: an ill-formed request for each check -/

/-- R92 -/
theorem test_illFormed_descriptor_of_7_bytes :
    (Instr.execute 0x90#64 7#32 ⟨4#32, 0#32, 0#32, false, false, false⟩).illFormed = [.descriptorLength] := by
  decide

/-- R95: 0x10200 has the valid length 0x200 in its low 15 bits only. -/
theorem test_illFormed_length_compared_over_32_bits :
    (Instr.encode ⟨0x10200#32, 0#32, 0#32, false, false, false⟩).illFormed = [.responseLength] ∧
    (Instr.execute 0x90#64 8#32 ⟨0x10200#32, 0#32, 0#32, false, false, false⟩).illFormed =
      [.responseLength] := by
  decide

theorem test_wellFormed_identify :
    (Instr.execute 0x90#64 8#32 ⟨4#32, 0#32, 0#32, false, false, false⟩).wellFormed := by
  decide

/-! ### Decoding words written out from R90 and R21 -/

/-- EXECUTE, every field with a value of its own: `req_op` 00 lowest, then `req_cmd`, `req_cmd_len`, `req_len`,
`req_pre`, `req_post`, and the four flag bits on top. -/
theorem test_decode_execute :
    decode (0b0#1 ++ 0b1#1 ++ 0b0#1 ++ 0b1#1 ++ 0x00000018#32 ++ 0x000008F8#32 ++ 0x00001000#32 ++ 0x00000008#32 ++
        0x00000003020100B7#64 ++ 0b00#2) =
      .ok (.execute 0x00000003020100B7#64 8#32 ⟨0x1000#32, 0x8F8#32, 0x18#32, true, false, true⟩) := by
  decide

/-- RESET with a discard sink: `req_op` 01 and the top bit. -/
theorem test_decode_reset :
    decode (0b1#1 ++ 0b0#1 ++ 0b0#1 ++ 0b0#1 ++ 0#32 ++ 0#32 ++ 0#32 ++ 0#32 ++ 0#64 ++ 0b01#2) =
      .ok (.reset true) := by
  decide

/-- ENCODE of L2-E5's third row, `req_op` 10. -/
theorem test_decode_encode :
    decode (0b0#1 ++ 0b1#1 ++ 0b1#1 ++ 0b1#1 ++ 0x00000041#32 ++ 0x00002001#32 ++ 0x00000004#32 ++ 0#32 ++ 0#64 ++
        0b10#2) =
      .ok (.encode ⟨4#32, 0x2001#32, 0x41#32, true, true, true⟩) := by
  decide

/-- R102a: `req_op` 11 is rejected by name. -/
theorem test_decode_reserved : decode 0b11#198 = .error .reservedOp := by
  decide

/-- The three table words run from the reset state. -/
theorem test_table_words_run_from_reset :
    runs (State.reset.withFetchWord 8 0) = true ∧ runs (State.reset.withFetchWord 8 1) = true ∧
      runs (State.reset.withFetchWord 8 2) = true := by
  decide

/-! ### One request each way -/

/-- L2-E5, first row: every field of the Control Word. -/
theorem test_encode_combined_flags :
    let t := after (offeringLine "ENCODE len=0x4000 pre=0x1FFF post=0x3F cenc renc slow" base)
    t.respValid = true ∧ t.respStatus = 0#2 ∧ t.respCw = 0x0E7F7FFF#32 ∧ t.dp = none := by
  decide

/-- P5, second request: an invalid length. -/
theorem test_encode_invalid_length :
    let t := after (offeringLine "ENCODE len=0x10200" base)
    t.respValid = true ∧ t.respStatus = 1#2 ∧ t.respCw = 0#32 := by
  decide

/-- L2-T8: the descriptor's lanes and the Control value latched at acceptance. -/
theorem test_execute_latches_descriptor_and_control :
    let t := after (offeringLine
      "EXECUTE cmd=0xB7,0x00,0x01,0x02,0x03,0x00,0x00,0x00 len=0x1000 pre=0x8F8 post=0x18" base)
    t.fsm = .wrCmd ∧ t.dp = some ⟨0x00000003020100B7#64, 0xA41808F8#32, 0x1000#15, 0#15, .caller⟩ ∧
      t.trace = [] := by
  decide

/-- L1-3: an invalid length issues no access. -/
theorem test_execute_invalid_length :
    let t := after (offeringLine "EXECUTE cmd=0x90,0,0,0,0,0,0,0 len=0x300" base)
    t.respValid = true ∧ t.respStatus = 1#2 ∧ t.respCw = 0#32 ∧ t.trace = [] := by
  decide

/-- RESET under GK: the descriptor 0x9F and the Control value 0xAD180000. -/
theorem test_reset_under_gk :
    let t := after (offeringLine "RESET" base)
    t.fsm = .wrCmd ∧ t.dp = some discarding := by
  decide

/-- L1-8: allocation failure. -/
theorem test_reset_noscratch :
    let t := after (offeringLine "RESET noscratch" base)
    t.respValid = true ∧ t.respStatus = 2#2 ∧ t.respCw = 0#32 ∧ t.trace = [] := by
  decide

/-! ### One step each of the state machine -/

/-- L1-6: the Command write, one 8-byte access. -/
theorem test_wrCmd : (after (busy .wrCmd identify [] [])).busOut = some (.write8 0x10164008 0x90#64) := by
  decide

/-- L1-6: the Control write. -/
theorem test_wrCtrl : (after (busy .wrCtrl identify [] [])).busOut = some (.write4 0x10164004 0xA7000000#32) := by
  decide

/-- L2-T2 and L2-T6: busy clear ends the request whatever the other bits; L2-T7: busy set with data-ready clear polls
on. -/
theorem test_poll_branches :
    (after (busy .poll identify [0x00800000#32] [])).fsm = .resp ∧
    (after (busy .poll identify [0x7FFFFFFF#32] [])).fsm = .resp ∧
    (after (busy .poll identify [0x80800000#32] [])).fsm = .drain ∧
    (after (busy .poll identify [0xFF7FFFFF#32] [])).fsm = .poll := by
  decide

/-- P1: the word 0x00001FC2 at offset 0, little-endian. -/
theorem test_drain_stores_little_endian :
    let t := after (busy .drain identify [] [0x00001FC2#32])
    t.buffer = [(0, 0xC2#8), (1, 0x1F#8), (2, 0x00#8), (3, 0x00#8)] ∧ t.dp = some { identify with cursor := 4#15 } := by
  decide

/-- R154: a word beyond the length is read and discarded. -/
theorem test_drain_discards_excess :
    let t := after (busy .drain { identify with cursor := 4#15 } [] [5#32])
    t.busOut = some (.read4 0x1016401C 5#32) ∧ t.bufOut = none ∧ t.dp = some { identify with cursor := 4#15 } := by
  decide

/-- R43: the acceptance of a request puts its own script in play, with both counts at 0, whatever an earlier one left. -/
theorem test_acceptance_starts_the_script :
    let s := { offeringLine "RESET" base with
      script := ⟨⟨[1#32, 2#32], []⟩, ⟨[3#32], []⟩⟩
      scripts := ⟨[⟨⟨[0#32], []⟩, ⟨[5#32], []⟩⟩], []⟩
      statusReads := 1 }
    (after s).script = ⟨⟨[0#32], []⟩, ⟨[5#32], []⟩⟩ ∧ (after s).statusReads = 0 ∧ (after s).fifoReads = 0 := by
  decide

/-- R43: the `k`-th read of a request returns `S[k]`, and an infinite script has no last word. -/
theorem test_script_words :
    statusWord { busy .poll identify [7#32, 8#32] [] with statusReads := 1 } = 8#32 ∧
    statusWord { busy .poll identify [] [] with
      script := ⟨⟨[7#32], [8#32, 9#32]⟩, ⟨[], []⟩⟩, statusReads := 4 } = 9#32 := by
  decide

/-- R148: `rst` in POLL makes no access, and wins over an offered request in IDLE. -/
theorem test_rst_wins :
    (after (withInputs { low with rst := true } (busy .poll identify [] []))).fsm = .idle ∧
    (after (withInputs { low with rst := true } (busy .poll identify [] []))).busOut = none ∧
    (after (withInputs { low with rst := true, reqValid := true } base)).fsm = .idle := by
  decide

/-- R61, R66: GK at the candidate addresses is legal; overlapping or misaligned registers are not. -/
theorem test_legal_parameters :
    paramsLegal gk = true ∧ paramsLegal overlapping = false ∧
      paramsLegal { gk with cmdAddr := 0x1016400C } = false := by
  decide

/-! ### Witnesses: for every statement with premises, values that meet them all, one for each clause -/

/-- The flags of the identify request. -/
def identifyFlags : OpFlags := ⟨4#32, 0#32, 0#32, false, false, false⟩

/-- Flags with every field at its largest value that encodes unchanged. -/
def fullFlags : OpFlags := ⟨0x4000#32, 0x1FFF#32, 0x3F#32, true, true, true⟩

/-- Flags one above the delay boundaries. -/
def wrappedFlags : OpFlags := ⟨0#32, 0x2000#32, 0x40#32, false, false, false⟩

/-- Samples of the port with each `req_op`. -/
theorem witness_ReqOpSelectsTheRequest :
    low.req.op = 0#2 ∧ { low.req with op := 1#2 }.op = 1#2 ∧ { low.req with op := 2#2 }.op = 2#2 ∧
      reservedRequest.op = 3#2 := by
  decide

theorem witness_ValidLengthsAreTheEight :
    validLen 0#32 = true ∧ validLen 4#32 = true ∧ validLen 0x4000#32 = true ∧ validLen 8#32 = false ∧
      validLen 0x4001#32 = false := by
  decide

theorem witness_BlockSizeTableIsABijection : blkSize 0#32 = some 0#3 ∧ blkSize 4#32 = some 7#3 := by
  decide

theorem witness_BlockLengthInvertsBlockSize :
    blkSize 0x4000#32 = some 6#3 ∧ (1#3 ≠ 0#3 ∧ 1#3 ≠ 7#3) ∧ (6#3 ≠ 0#3 ∧ 6#3 ≠ 7#3) := by
  decide

theorem witness_EncodePacksTheFields : validLen fullFlags.len = true := by decide

/-- One of each length. -/
theorem witness_EncodeBlockSizeLaw :
    [0#32, 4#32, 0x200#32, 0x400#32, 0x800#32, 0x1000#32, 0x2000#32, 0x4000#32].map
        (fun n => encodeFlags { identifyFlags with len := n }) =
      [some 0#32, some 0x07000000#32, some 0x01000000#32, some 0x02000000#32, some 0x03000000#32,
       some 0x04000000#32, some 0x05000000#32, some 0x06000000#32] := by
  decide

/-- L2-E3's rows: no toggle, each toggle, both. -/
theorem witness_EncodeSecurityLaw :
    [(false, false), (true, false), (false, true), (true, true)].map
        (fun c => encodeFlags ⟨0#32, 0#32, 0#32, c.1, c.2, false⟩) =
      [some 0#32, some 0x00404000#32, some 0x00006000#32, some 0x00406000#32] := by
  decide

/-- L1-4: the boundary and one above it, for each delay. -/
theorem witness_EncodeDelayLaw :
    (validLen fullFlags.len = true ∧ fullFlags.pre = 0x1FFF#32 ∧ fullFlags.post = 0x3F#32) ∧
    (validLen wrappedFlags.len = true ∧ wrappedFlags.pre = 0x2000#32 ∧ wrappedFlags.post = 0x40#32) := by
  decide

theorem witness_EncodeZeroBitsLaw : encodeFlags fullFlags = some 0x0E7F7FFF#32 := by decide

/-- Two different flag values with one reduced tuple, and two with different ones. -/
theorem witness_EncodeDeterminationLaw :
    encodeFlags wrappedFlags = some 0#32 ∧
    encodeFlags { wrappedFlags with pre := 0#32, post := 0#32 } = some 0#32 ∧
    encodeFlags fullFlags = some 0x0E7F7FFF#32 := by
  decide

theorem witness_ControlValueFields : encodeFlags fullFlags = some 0x0E7F7FFF#32 := by decide

theorem witness_EncodeRequestAnswers :
    base.fsm = .idle ∧ validLen fullFlags.len = true ∧ validLen { fullFlags with len := 0x10200#32 }.len = false := by
  decide

theorem witness_ExecuteRequestStarts :
    base.fsm = .idle ∧ paramsLegal base.params = true ∧ validLen identifyFlags.len = true := by
  decide

/-- Each of the two bad arguments alone. -/
theorem witness_ExecuteRejectsBadArguments :
    base.fsm = .idle ∧ (7#32 ≠ 8#32 ∨ validLen identifyFlags.len = false) ∧
      (8#32 ≠ 8#32 ∨ validLen { identifyFlags with len := 0x300#32 }.len = false) := by
  decide

theorem witness_ResetRequestStarts : base.fsm = .idle ∧ paramsLegal base.params = true := by decide

theorem witness_ResetRequestNeedsAScratchSink : base.fsm = .idle := by decide

/-- A request that starts a transaction, one that is answered at once, and one that a busy block ignores. -/
theorem witness_RequestFrame :
    (∃ t, exec (.execute 0x90#64 8#32 identifyFlags) base = .next t ∧ t.fsm = .wrCmd) ∧
    (∃ t, exec (.encode identifyFlags) base = .next t ∧ t.fsm = .resp) ∧
    (∃ t, exec (.reset true) (busy .poll identify [] []) = .next t ∧ t.fsm = .poll) :=
  ⟨⟨_, rfl, rfl⟩, ⟨_, rfl, rfl⟩, ⟨_, rfl, rfl⟩⟩

/-- An ill-formed request answered, and a well-formed one. -/
theorem witness_IllFormedIsInvalidArgument :
    base.fsm = .idle ∧
    (∃ t, exec (.execute 0x90#64 7#32 identifyFlags) base = .next t ∧ t.fsm = .resp ∧ t.statusQ = 1#2) ∧
    (∃ t, exec (.encode identifyFlags) base = .next t ∧ t.fsm = .resp ∧ t.statusQ = 0#2) :=
  ⟨rfl, ⟨_, rfl, rfl, rfl⟩, ⟨_, rfl, rfl, rfl⟩⟩

/-- A request word that decodes, and one that the decoder rejects. -/
theorem witness_StepRunsTheOfferedRequest :
    (let s := offering (Request.ofBits 2#198) base
     s.fsm = .idle ∧ (sampleInputs s).rst = false ∧ (sampleInputs s).reqValid = true ∧
       (sampleInputs s).req = Request.ofBits 2#198 ∧
       decode 2#198 = .ok (.encode ⟨0#32, 0#32, 0#32, false, false, false⟩)) ∧
    (let s := offering (Request.ofBits 3#198) base
     s.fsm = .idle ∧ (sampleInputs s).rst = false ∧ (sampleInputs s).reqValid = true ∧
       (sampleInputs s).req = Request.ofBits 3#198 ∧ decode 3#198 = .error .reservedOp) := by
  decide

theorem witness_FetchWordRunsNext : decodeTableWord 8 1 = some (.reset false) := by decide

theorem witness_BeginStepUsesUpTheSample :
    (offering reservedRequest base).host =
      ⟨{ low with reqValid := true, req := reservedRequest } :: [], [low]⟩ := by
  decide

theorem witness_IdleWaits :
    base.fsm = .idle ∧ (sampleInputs base).rst = false ∧ (sampleInputs base).reqValid = false := by
  decide

theorem witness_WrCmdWritesTheDescriptor :
    let s := busy .wrCmd identify [] []
    s.fsm = .wrCmd ∧ s.dp = some identify ∧ paramsLegal s.params = true ∧ (sampleInputs s).rst = false := by
  decide

theorem witness_WrCtrlStartsTheTransaction :
    let s := busy .wrCtrl identify [] []
    s.fsm = .wrCtrl ∧ s.dp = some identify ∧ paramsLegal s.params = true ∧ (sampleInputs s).rst = false := by
  decide

/-- Each branch with the other bits of the status word set or clear against it. -/
theorem witness_PollBranchesOnTheStatus :
    (let s := busy .poll identify [0x7FFFFFFF#32] []
     s.fsm = .poll ∧ s.dp = some identify ∧ paramsLegal s.params = true ∧ (sampleInputs s).rst = false ∧
       (statusWord (beginStep s)).getLsbD 31 = false) ∧
    (let s := busy .poll identify [0x80800000#32] []
     (statusWord (beginStep s)).getLsbD 31 = true ∧ (statusWord (beginStep s)).getLsbD 23 = true) ∧
    (let s := busy .poll identify [0xFF7FFFFF#32] []
     (statusWord (beginStep s)).getLsbD 31 = true ∧ (statusWord (beginStep s)).getLsbD 23 = false) := by
  decide

/-- The last word that fits, for each sink, and the first that does not. -/
theorem witness_DrainStoresOrDiscards :
    (let d := identify
     let s := busy .drain d [] [0x1FC2#32]
     s.fsm = .drain ∧ s.dp = some d ∧ paramsLegal s.params = true ∧ (sampleInputs s).rst = false ∧
       d.cursor.toNat < d.len.toNat ∧ d.sink = .caller) ∧
    (let d := { discarding with cursor := 0x1FFC#15 }
     let s := busy .drain d [] [0xFFFF#32]
     s.fsm = .drain ∧ s.dp = some d ∧ paramsLegal s.params = true ∧ (sampleInputs s).rst = false ∧
       d.cursor.toNat < d.len.toNat ∧ d.sink = .scratch) ∧
    (let d := { identify with cursor := 4#15 }
     let s := busy .drain d [] [5#32]
     s.fsm = .drain ∧ s.dp = some d ∧ paramsLegal s.params = true ∧ (sampleInputs s).rst = false ∧
       d.len.toNat ≤ d.cursor.toNat) := by
  decide

theorem witness_RespHoldsUntilTaken :
    (let s := withInputs { low with respReady := true } (busy .resp identify [] [])
     s.fsm = .resp ∧ (sampleInputs s).rst = false ∧ (sampleInputs s).respReady = true) ∧
    (let s := busy .resp identify [] []
     s.fsm = .resp ∧ (sampleInputs s).rst = false ∧ (sampleInputs s).respReady = false) := by
  decide

/-- `rst` in POLL; and a POLL and a DRAIN step without it. -/
theorem witness_RstWinsInEveryState :
    (sampleInputs (withInputs { low with rst := true } (busy .poll identify [] []))).rst = true ∧
    (let s := busy .poll identify [0#32] []
     (sampleInputs s).rst = false ∧ runs s = true ∧ s.fsm = .poll ∧ (after s).fsm = .resp) ∧
    (let s := busy .drain identify [] [0#32]
     (sampleInputs s).rst = false ∧ runs s = true ∧ s.fsm = .drain ∧ (after s).fsm = .poll) := by
  decide

theorem witness_ResetStateIsWhatRstLeaves :
    let s := withInputs { low with rst := true } (busy .drain identify [] [])
    (sampleInputs s).rst = true ∧ runs s = true := by
  decide

theorem witness_ReservedFsmValuesFaultAndAreNeverEntered :
    (let s := busy .reserved6 identify [] []
     (sampleInputs s).rst = false ∧ s.fsm = .reserved6) ∧
    (let s := busy .reserved7 identify [] []
     (sampleInputs s).rst = false ∧ s.fsm = .reserved7) ∧ runs base = true := by
  decide

theorem witness_BusyBlockIgnoresOfferedRequests :
    (busy .resp identify [] []).fsm ≠ .idle ∧
      low.rst = { low with reqValid := true, req := reservedRequest }.rst ∧
      low.respReady = { low with reqValid := true, req := reservedRequest }.respReady := by
  decide

/-- One of each case of R201, and a request that is none of them. -/
theorem witness_InvalidArgumentExactlyInItsCases :
    ["EXECUTE cmd=0x90,0,0,0,0,0,0,0 len=0x300", "EXECUTE cmd=0x90,0,0,0,0,0,0,0 len=4 cmdlen=7", "ENCODE len=8",
      "ENCODE len=4"].all
        (fun line =>
          let s := offeringLine line base
          s.fsm == .idle && !(sampleInputs s).rst && (sampleInputs s).reqValid && runs s) = true ∧
    (let s := offering reservedRequest base
     s.fsm = .idle ∧ (sampleInputs s).rst = false ∧ (sampleInputs s).reqValid = true ∧ runs s = true ∧
       (after s).fsm = .resp ∧ (after s).statusQ = 1#2) := by
  decide

/-- RESET with and without a discard sink. -/
theorem witness_ResourceExhaustedExactlyForResetWithoutSink :
    (let s := offeringLine "RESET noscratch" base
     s.fsm = .idle ∧ (sampleInputs s).rst = false ∧ (sampleInputs s).reqValid = true ∧ runs s = true ∧
       (after s).fsm = .resp ∧ (after s).statusQ = 2#2) ∧
    (let s := offeringLine "RESET" base
     s.fsm = .idle ∧ (sampleInputs s).rst = false ∧ (sampleInputs s).reqValid = true ∧ runs s = true ∧
       (after s).fsm = .wrCmd) := by
  decide

/-- A step that ends the transaction, and one that does not. -/
theorem witness_TransactionEndsOnlyWithSuccess :
    (let s := busy .poll identify [0x00800000#32] []
     inTransaction s.fsm = true ∧ runs s = true ∧ (after s).fsm = .resp) ∧
    (let s := busy .wrCmd identify [] []
     inTransaction s.fsm = true ∧ runs s = true ∧ (after s).fsm = .wrCtrl) := by
  decide

/-- A step with each kind of access, and one with none. -/
theorem witness_StepMakesItsOneAccess :
    [.wrCmd, .wrCtrl, .poll, .drain].all
        (fun x =>
          let s := busy x identify [0x80000000#32] [1#32]
          runs s && (after s).busOut.isSome) = true ∧
      runs base = true ∧ (after base).busOut = none := by
  decide

theorem witness_BufferWriteOnlyInAStoringDrain :
    let s := busy .drain identify [] [0x1FC2#32]
    runs s = true ∧ (after s).bufOut = some ⟨0#15, 0x1FC2#32⟩ := by
  decide

/-- A storing DRAIN step; and a step out of DRAIN, one with `rst`, and one that discards. -/
theorem witness_StepChangesOnlyTheStoredBytes :
    (let s := busy .drain identify [] [0x1FC2#32]
     runs s = true ∧ s.fsm = .drain ∧ (sampleInputs s).rst = false ∧ drainTarget (beginStep s) = some 0#15) ∧
    (runs base = true ∧ base.fsm ≠ .drain) ∧
    (let s := withInputs { low with rst := true } (busy .drain identify [] [])
     runs s = true ∧ (sampleInputs s).rst = true) ∧
    (let s := busy .drain discarding [] [0x1FC2#32]
     runs s = true ∧ drainTarget (beginStep s) = none) := by
  decide

/-- A DRAIN step, and an IDLE step without a request after an earlier one. -/
theorem witness_DatapathWrittenOnlyAtAcceptance :
    (let s := busy .drain identify [] [0#32]
     runs s = true ∧ s.dp = some identify ∧ (sampleInputs s).rst = false ∧ s.fsm ≠ .idle) ∧
    (let s := busy .idle identify [] []
     runs s = true ∧ s.dp = some identify ∧ (sampleInputs s).rst = false ∧ (sampleInputs s).reqValid = false) := by
  decide

theorem witness_ScratchWordsNeverLeaveTheBlock :
    let s := busy .drain discarding [] [0xFFFF#32]
    s.dp = some discarding ∧ discarding.sink = .scratch ∧ runs s = true ∧ s.fsm = .drain ∧
      (sampleInputs s).rst = false ∧ inTransaction s.fsm = true := by
  decide

theorem witness_ParametersNeverChange : runs (busy .drain identify [] [0#32]) = true := by decide

/-- The script that plays P1: `S` and `D`. -/
def p1Script : Script := ⟨⟨[0x80000000#32, 0x80800000#32, 0#32], []⟩, ⟨[0x00001FC2#32], []⟩⟩

/-- One request after another, with what the first left and without it. -/
theorem witness_EarlierRequestsLeaveNoTrace :
    (let s := offeringLine "RESET" base
     s.fsm = .idle ∧ (sampleInputs s).rst = false ∧ (sampleInputs s).reqValid = true ∧ runs s = true ∧
       runs { s with
        dp := some identify, statusQ := 1#2, cwQ := 0xA7000000#32, script := p1Script, statusReads := 2,
        fifoReads := 1 } = true ∧ (after s).fsm = .wrCmd) ∧
    (let s := offeringLine "RESET noscratch" base
     s.fsm = .idle ∧ (sampleInputs s).rst = false ∧ (sampleInputs s).reqValid = true ∧ runs s = true ∧
       runs { s with
        dp := some identify, statusQ := 1#2, cwQ := 0xA7000000#32, script := p1Script, statusReads := 2,
        fifoReads := 1 } = true ∧ (after s).fsm = .resp) := by
  decide

theorem witness_DescriptorBytesGoToTheirLanes :
    let s := busy .wrCmd identify [] []
    s.fsm = .wrCmd ∧ s.dp = some identify ∧ (sampleInputs s).rst = false ∧ runs s = true := by
  decide

/-- A step in IDLE, one in each state of a transaction, and the two requests that would start one. -/
theorem witness_IllegalConfigurationIsRefused :
    (let s := { base with params := overlapping }
     paramsLegal s.params = false ∧ s.fsm = .idle ∧ runs s = true) ∧
    [.wrCmd, .wrCtrl, .poll, .drain].all
        (fun x =>
          let s := { busy x identify [0#32] [0#32] with params := overlapping }
          !(sampleInputs s).rst && inTransaction s.fsm) = true ∧
    validLen identifyFlags.len = true := by
  decide

/-- The datapath of the identify request is what `start` left and the drainer moved. -/
theorem identify_ok (c : BitVec 15) (h : c = 0#15 ∨ c = 4#15) :
    DatapathOk gk { identify with cursor := c } where
  started := ⟨identifyFlags, 0x07000000#32, by decide, rfl, rfl, fun h => by cases h⟩
  cursor_le_len := by rcases h with rfl | rfl <;> decide
  cursor_aligned := by rcases h with rfl | rfl <;> decide

/-- The invariant holds in a transaction of the identify request, before and after its word. -/
theorem busy_inv (x : Fsm) (c : BitVec 15) (j : Nat) (S D : List Word)
    (h : (c = 0#15 ∧ j = 0) ∨ (c = 4#15 ∧ j = 1 ∧ x ≠ .wrCmd ∧ x ≠ .wrCtrl))
    (hx : x ≠ .reserved6 ∧ x ≠ .reserved7) :
    State.Inv { busy x { identify with cursor := c } S D with fifoReads := j } where
  fsm_legal := hx
  datapath_present := fun _ => rfl
  config_legal := fun _ => (by decide : paramsLegal gk = true)
  datapath_ok := fun d hd => by
    cases hd
    exact identify_ok c (h.imp And.left And.left)
  status_legal := (by decide : (0#2 : BitVec 2) ≠ 3#2)
  rejected_cw := fun hs => absurd rfl hs
  counts_fresh := fun hw => ⟨rfl, h.elim And.right fun h => (hw.elim h.2.2.1 h.2.2.2).elim⟩
  cursor_counts := fun d hd => by
    cases hd
    rcases h with ⟨rfl, rfl⟩ | ⟨rfl, rfl, _⟩ <;> rfl
  buffer_wf := List.Pairwise.nil
  buffer_bound := fun c hc => by cases hc

/-- Steps from a state in each part of a transaction that meets the invariant. -/
theorem witness_EveryStepKeepsTheInvariant :
    (∃ s t : State, s.fsm = .drain ∧ s.Inv ∧ step s = .next t) ∧
    (∃ s t : State, s.fsm = .poll ∧ s.Inv ∧ step s = .next t) :=
  ⟨⟨busy .drain identify [] [5#32], _, rfl, busy_inv .drain 0#15 0 _ _ (.inl ⟨rfl, rfl⟩) (by decide),
      step_of_runs (by decide)⟩,
    ⟨{ busy .poll { identify with cursor := 4#15 } [0#32] [] with fifoReads := 1 }, _, rfl,
      busy_inv .poll 4#15 1 _ _ (.inr (by decide)) (by decide),
      step_of_runs (by decide)⟩⟩

/-- An EXECUTE offered under an illegal configuration. -/
def refusing : State :=
  { offeringLine "EXECUTE cmd=0x90,0,0,0,0,0,0,0 len=4" base with params := overlapping }

theorem refusing_inv : refusing.Inv where
  fsm_legal := by decide
  datapath_present := fun h => by cases (by decide : inTransaction refusing.fsm = false).symm.trans h
  config_legal := fun h => by cases (by decide : inTransaction refusing.fsm = false).symm.trans h
  datapath_ok := fun d hd => by cases (by decide : refusing.dp = none).symm.trans hd
  status_legal := by decide
  rejected_cw := by decide
  counts_fresh := by decide
  cursor_counts := fun d hd => by cases (by decide : refusing.dp = none).symm.trans hd
  buffer_wf := by decide
  buffer_bound := by decide

/-- A state that meets the invariant and runs on, and one whose step is refused. -/
theorem witness_NoFaultUnderTheInvariant :
    (busy .drain identify [] [5#32]).Inv ∧
    refusing.Inv ∧ step refusing = .refused .illegalConfiguration :=
  ⟨busy_inv .drain 0#15 0 _ _ (.inl ⟨rfl, rfl⟩) (by decide), refusing_inv, rfl⟩

/-- What a claim about the identify request supposes of the other agents: a buffer of 4 bytes that only the block uses,
another master's read of plain memory, and a controller that is not busy. -/
def launch : Launch := ⟨0x02000000, 4, [], [.read4 0x02000000 0#32], 0#32⟩

theorem launch_exclusive : launch.ExclusiveOwnership gk := by
  unfold Launch.ExclusiveOwnership
  decide

theorem launch_premises : launch.Premises gk 4 where
  capacity := ⟨by decide, by decide⟩
  leftAlone := rfl
  exclusive := launch_exclusive
  idle := rfl

theorem witness_BufferWritesStayBelowTheLength :
    launch.BufferCapacity identify.len.toNat ∧
    ∃ s t : State, s.Inv ∧ s.dp = some identify ∧ step s = .next t ∧ t.bufOut = some ⟨0#15, 0x1FC2#32⟩ :=
  ⟨launch_premises.capacity, busy .drain identify [] [0x1FC2#32], _, busy_inv .drain 0#15 0 _ _ (.inl ⟨rfl, rfl⟩) (by decide), rfl,
    step_of_runs (by decide), by decide⟩

theorem witness_EveryControlWriteIsLawful :
    ∃ s t : State, s.Inv ∧ step s = .next t ∧ t.busOut = some (.write4 gk.ctrlAddr 0xA7000000#32) :=
  ⟨busy .wrCtrl identify [] [], _, busy_inv .wrCtrl 0#15 0 _ _ (.inl ⟨rfl, rfl⟩) (by decide),
    step_of_runs (by decide), by decide⟩

/-- The rounds of P1: a busy poll, then the chip's word. -/
def p1Rounds : List Round := [.wait 0x80000000#32, .word 0x80800000#32 0x00001FC2#32]

/-- The request `r` offered to an idle block, whose controller plays P1 at every request. -/
def playing (r : Request) : State := { offering r base with scripts := ⟨[], [p1Script]⟩ }

theorem playing_replays (r : Request) : Replays p1Script (playing r) :=
  ⟨fun h => absurd h Bool.false_ne_true, rfl⟩

theorem playing_noReset (r : Request) (n : Nat) : NoReset n (playing r) :=
  noReset_of_feed (by simp [playing, offering, withInputs]) (by simp [playing, offering, withInputs, low]) n

/-- The port sample of the identify request. -/
def identifyRequest : Request := (Instr.execute 0x90#64 8#32 identifyFlags).request

/-- The port sample of RESET with a discard sink. -/
def resetRequest : Request := (Instr.reset true).request

theorem witness_ExecuteTransactionUnderAScript :
    let s := playing identifyRequest
    s.fsm = .idle ∧ paramsLegal s.params = true ∧ (sampleInputs s).reqValid = true ∧
      decodeRequest (sampleInputs s).req = .ok (.execute 0x90#64 8#32 identifyFlags) ∧
      encodeFlags identifyFlags = some 0x07000000#32 ∧ NoReset (4 + roundSteps p1Rounds) s ∧
      (∀ x ∈ p1Rounds, x.ok = true) ∧ busyBit 0#32 = false ∧
      ScriptedController (4 + roundSteps p1Rounds) s (finiteScript (roundStatuses p1Rounds ++ [0#32]))
        (finiteScript (roundWords p1Rounds)) ∧
      launch.Premises s.params identifyFlags.len.toNat :=
  ⟨rfl, by decide, rfl, by decide, by decide, playing_noReset _ _, by decide, by decide,
    ((playing_replays _).scriptedController _).finite rfl rfl, launch_premises⟩

theorem witness_ResetTransactionUnderAScript :
    let s := playing resetRequest
    s.fsm = .idle ∧ paramsLegal s.params = true ∧ (sampleInputs s).reqValid = true ∧
      decodeRequest (sampleInputs s).req = .ok (.reset true) ∧
      encodeFlags (resetFlags s.params) = some 0x0D180000#32 ∧ NoReset (4 + roundSteps p1Rounds) s ∧
      (∀ x ∈ p1Rounds, x.ok = true) ∧ busyBit 0#32 = false ∧
      ScriptedController (4 + roundSteps p1Rounds) s (finiteScript (roundStatuses p1Rounds ++ [0#32]))
        (finiteScript (roundWords p1Rounds)) ∧
      launch.ExclusiveOwnership s.params :=
  ⟨rfl, by decide, rfl, by decide, by decide, playing_noReset _ _, by decide, by decide,
    ((playing_replays _).scriptedController _).finite rfl rfl, launch_exclusive⟩

/-- The identify request under way, with a controller that replays `sc`. -/
def underWay (x : Fsm) (sc : Script) : State :=
  { busy x identify [] [] with script := sc, scripts := ⟨[], [sc]⟩ }

theorem underWay_noReset (x : Fsm) (sc : Script) (n : Nat) : NoReset n (underWay x sc) :=
  noReset_of_feed (by simp [underWay, busy, base]) (by simp [underWay, busy, base, low]) n

/-- The script of the rounds of P1 alone. -/
def p1Prefix : Script := ⟨⟨[0x80000000#32, 0x80800000#32], []⟩, ⟨[0x00001FC2#32], []⟩⟩

theorem witness_UnfinishedTransactionMakesAPrefix :
    let s := underWay .wrCmd p1Prefix
    s.fsm = .wrCmd ∧ s.dp = some identify ∧ paramsLegal s.params = true ∧ s.statusReads = 0 ∧ s.fifoReads = 0 ∧
      NoReset (2 + roundSteps p1Rounds) s ∧ (∀ x ∈ p1Rounds, x.ok = true) ∧
      ScriptedController (2 + roundSteps p1Rounds) s (finiteScript (roundStatuses p1Rounds))
        (finiteScript (roundWords p1Rounds)) :=
  ⟨rfl, rfl, by decide, rfl, rfl, underWay_noReset _ _ _, by decide,
    (Replays.scriptedController (sc := p1Prefix) ⟨fun _ => rfl, rfl⟩ _).finite rfl rfl⟩

/-- L2-T11: busy for ever. -/
def hung : Script := ⟨⟨[], [0x80000000#32]⟩, ⟨[], []⟩⟩

theorem hung_script (n : Nat) :
    ScriptedController n (underWay .poll hung) (fun _ => some 0x80000000#32) (feedNth hung.fifo) := by
  have h := Replays.scriptedController (sc := hung) (s := underWay .poll hung) ⟨fun _ => rfl, rfl⟩ n
  have hS : feedNth hung.status = fun _ => some 0x80000000#32 := by
    funext k
    simp [hung, feedNth, Nat.mod_one]
  rwa [hS] at h

/-- Both clauses: a run in which busy never clears, and the infinite script that makes it one. -/
theorem witness_HangNeverEnds :
    let s := underWay .poll hung
    (s.fsm = .poll ∨ s.fsm = .drain) ∧ paramsLegal s.params = true ∧ (∀ n, NoReset n s) ∧ BusyNeverClears s ∧
      (∀ k, busyBit ((fun _ => 0x80000000#32 : Nat → Word) k) = true) ∧
      (∀ n, ScriptedController n s (fun k => some ((fun _ => 0x80000000#32 : Nat → Word) k))
        (feedNth hung.fifo)) :=
  ⟨.inl rfl, by decide, underWay_noReset _ _, fun k t ht hf => by
      rw [(hung_script (k + 1) k (Nat.lt_succ_self k) t ht).1 hf _ rfl]
      decide,
    fun _ => (by decide : busyBit 0x80000000#32 = true), hung_script⟩

end Sys2Proof.Tests
end

/-! The statements on the state of the block: request words, register codes, outputs, and what one step may touch. -/

namespace Sys2Proof

/-! ### Request words (R21) -/

/-- A bit of a word is its field of width 1. -/
theorem ofBool_getLsbD_eq_extractLsb' {w : Nat} (b : BitVec w) (k : Nat) :
    BitVec.ofBool (b.getLsbD k) = b.extractLsb' k 1 := by
  apply BitVec.eq_of_getLsbD_eq
  simp

/-- No input of the port is lost in its word. -/
@[simp] theorem Request.ofBits_bits (r : Request) : Request.ofBits r.bits = r := by
  simp only [Request.ofBits, Request.bits, Machine.extract_append_low, Machine.extract_append_high,
    Machine.get_append_high, Machine.get_append_low, Nat.reduceLeDiff, Nat.reduceSub, le_refl, BitVec.getLsbD_ofBool,
    decide_true, Bool.true_and]

/-- No bit of the word is lost in the port's inputs: each field begins where the one below it ends. -/
@[simp] theorem Request.bits_ofBits (b : BitVec requestBits) : (Request.ofBits b).bits = b := by
  simp only [Request.ofBits, Request.bits, ofBool_getLsbD_eq_extractLsb']
  iterate 9 rw [BitVec.extractLsb'_append_extractLsb'_eq_extractLsb' (by rfl)]
  exact BitVec.extractLsb'_eq_self

/-- Settles O2: the fields of the port lie side by side in the word and fill it. -/
theorem requestWordIsTheWholePort : Obligations.RequestWordIsTheWholePort :=
  ⟨Request.ofBits_bits, Request.bits_ofBits⟩

end Sys2Proof

namespace Sys2Proof.Machine

variable {s t : State}

/-! ### Registers and outputs (R22, R25, R29) -/

/-- The FSM state that has a code (R25). -/
def fsmOfCode (b : BitVec 3) : Fsm :=
  match b.toNat with
  | 0 => .idle
  | 1 => .wrCmd
  | 2 => .wrCtrl
  | 3 => .poll
  | 4 => .drain
  | 5 => .resp
  | 6 => .reserved6
  | _ => .reserved7

@[simp] theorem fsmOfCode_fsmCode (x : Fsm) : fsmOfCode (fsmCode x) = x := by
  cases x <;> rfl

@[simp] theorem fsmCode_fsmOfCode (b : BitVec 3) : fsmCode (fsmOfCode b) = b := by
  revert b
  decide

/-- Settles O24: `fsmOfCode` inverts `fsmCode`, so each code has one state. -/
theorem registerCodes : Obligations.RegisterCodes :=
  ⟨rfl, rfl, rfl, rfl, rfl, rfl,
    fun b => ⟨fsmOfCode b, fsmCode_fsmOfCode b, fun y hy => by rw [← hy, fsmOfCode_fsmCode]⟩, rfl, rfl⟩

/-- Settles O23: each output is the test or the register that R22 names. -/
theorem outputsFollowTheState : Obligations.OutputsFollowTheState := fun s =>
  ⟨by simp [State.reqReady], by simp [State.respValid], rfl, rfl, by simp [State.executeOk, statusOk]⟩

/-- Settles O27: the head of a script is the sample, and its tail is what the step leaves. -/
theorem beginStepUsesUpTheSample : Obligations.BeginStepUsesUpTheSample := by
  intro s inp q c hs
  exact ⟨sampleInputs_script inp q c hs, by rw [beginStep, hs, feedTail_pending]⟩

/-- Settles O53: in IDLE after `rst` the datapath is absent, the status is OK and nothing is in the buffer. -/
theorem resetStateMeetsTheInvariant : Obligations.ResetStateMeetsTheInvariant where
  fsm_legal := by simp [State.reset]
  datapath_present := by simp [State.reset, inTransaction]
  config_legal := by simp [State.reset, inTransaction]
  datapath_ok := by simp [State.reset]
  status_legal := by simp [State.reset]
  rejected_cw := fun _ => rfl
  counts_fresh := by simp [State.reset]
  cursor_counts := by simp [State.reset]
  buffer_wf := .nil
  buffer_bound := by simp [State.reset]

/-! ### What the acceptance of a request leaves alone -/

/-- No request touches the ports, the buffer, the record or the parameters. -/
theorem ExecCase.frame (h : ExecCase s t) :
    t.bufOut = s.bufOut ∧ t.busOut = s.busOut ∧ t.buffer = s.buffer ∧ t.trace = s.trace ∧ t.params = s.params := by
  cases h with
  | busy _ next => simp [next]
  | answered _ _ _ next _ => simp [next]
  | started _ _ _ _ _ _ _ _ next => simp [next]

/-- In IDLE the request and the parameters alone fix what a request does: it starts a transaction with some
registers, or it is answered with some status and Control Word. -/
theorem exec_of_idle (i : Instr) (p : Params) :
    (∃ c cw len k, ∀ s : State, s.fsm = .idle → s.params = p → exec i s = start c cw len k s) ∨
    (∃ st cw, ∀ s : State, s.fsm = .idle → s.params = p → exec i s = .next (respond st cw s)) := by
  cases i with
  | execute cmd n f =>
    by_cases hn : n = descriptorLength
    · cases hf : encodeFlags f with
      | some cw =>
        exact .inl ⟨cmd, cw, f.len, .caller, fun s hi _ => by
          simp [exec, execExecute, whenIdle_of_idle hi, hn, hf]⟩
      | none =>
        exact .inr ⟨errorCode .invalidArgument, 0#32, fun s hi _ => by
          simp [exec, execExecute, whenIdle_of_idle hi, hn, hf, raise]⟩
    · exact .inr ⟨errorCode .invalidArgument, 0#32, fun s hi _ => by
        simp [exec, execExecute, whenIdle_of_idle hi, hn, raise]⟩
  | reset ok =>
    cases ok with
    | true =>
      cases hf : encodeFlags (resetFlags p) with
      | some cw =>
        exact .inl ⟨p.resetCmd, cw, (resetFlags p).len, .scratch, fun s hi hp => by
          simp [exec, execReset, whenIdle_of_idle hi, hp, hf]⟩
      | none =>
        exact .inr ⟨errorCode .invalidArgument, 0#32, fun s hi hp => by
          simp [exec, execReset, whenIdle_of_idle hi, hp, hf, raise]⟩
    | false =>
      exact .inr ⟨errorCode .resourceExhausted, 0#32, fun s hi _ => by
        simp [exec, execReset, whenIdle_of_idle hi, raise]⟩
  | encode f =>
    cases hf : encodeFlags f with
    | some cw =>
      exact .inr ⟨statusOk, cw, fun s hi _ => by simp [exec, execEncode, whenIdle_of_idle hi, hf]⟩
    | none =>
      exact .inr ⟨errorCode .invalidArgument, 0#32, fun s hi _ => by
        simp [exec, execEncode, whenIdle_of_idle hi, hf, raise]⟩

/-- A step that accepts a port sample does the same: a code the decoder rejects is answered InvalidArgument. -/
theorem step_of_offer (inp : HostInputs) (p : Params) (hr : inp.rst = false) (hv : inp.reqValid = true) :
    (∃ c cw len k, ∀ s : State, s.fsm = .idle → sampleInputs s = inp → s.params = p →
      step s = start c cw len k (beginStep s)) ∨
    (∃ st cw, ∀ s : State, s.fsm = .idle → sampleInputs s = inp → s.params = p →
      step s = .next (respond st cw (beginStep s))) := by
  cases hd : decodeRequest inp.req with
  | ok i =>
    have runs : ∀ s : State, s.fsm = .idle → sampleInputs s = inp → step s = exec i (beginStep s) := by
      intro s hi hs
      simp [step_of_request (hs ▸ hr) hi (hs ▸ hv), hs, hd]
    refine (exec_of_idle i p).imp ?_ ?_
    · rintro ⟨c, cw, len, k, h⟩
      exact ⟨c, cw, len, k, fun s hi hs hp => (runs s hi hs).trans (h _ hi hp)⟩
    · rintro ⟨st, cw, h⟩
      exact ⟨st, cw, fun s hi hs hp => (runs s hi hs).trans (h _ hi hp)⟩
  | error e =>
    exact .inr ⟨errorCode .invalidArgument, 0#32, fun s hi hs _ => by
      simp [step_of_request (hs ▸ hr) hi (hs ▸ hv), hs, hd, rejectRequest, raise]⟩

/-- Settles O47: both states accept the offer in the same way, and what acceptance writes is fixed by the offer, the
parameters and the scripts to come. -/
theorem earlierRequestsLeaveNoTrace : Obligations.EarlierRequestsLeaveNoTrace := by
  intro s t t' dp st cw sc k j hi hr hv ht ht'
  rcases step_of_offer (sampleInputs s) s.params hr hv with ⟨c, cw₀, len, sink, starts⟩ | ⟨st₀, cw₀, answers⟩
  · obtain ⟨-, rfl⟩ := start_eq_next.1 (ht.symm.trans (starts _ hi rfl rfl)).symm
    obtain ⟨-, rfl⟩ := start_eq_next.1 (ht'.symm.trans (starts _ hi rfl rfl)).symm
    simp
  · obtain rfl := next_inj (ht.symm.trans (answers _ hi rfl rfl)).symm
    obtain rfl := next_inj (ht'.symm.trans (answers _ hi rfl rfl)).symm
    simp

/-! ### What a DRAIN step's word does to the record and the datapath -/

/-- The write port shows the word at the drainer's target, if there is one. -/
theorem storeOrDiscard_bufOut (w : Word) (h : s.bufOut = none) :
    (storeOrDiscard w s).bufOut = (drainTarget s).map fun off => ⟨off, w⟩ := by
  rcases storeOrDiscard_cases w s with ⟨hd, _, _, e⟩ | ⟨hd, _, _, e⟩ | ⟨hd, _, e⟩ <;> simp [e, hd, h]

/-- The record grows by what the write port shows. -/
theorem storeOrDiscard_trace (w : Word) (h : s.bufOut = none) :
    (storeOrDiscard w s).trace = s.trace ++ (storeOrDiscard w s).bufOut.toList.map Event.buf := by
  rcases storeOrDiscard_cases w s with ⟨_, _, _, e⟩ | ⟨_, _, _, e⟩ | ⟨_, _, e⟩ <;> simp [e, h]

/-- Of the datapath registers only the cursor can move. -/
theorem storeOrDiscard_dp (w : Word) {d : Datapath} (h : s.dp = some d) :
    ∃ c, (storeOrDiscard w s).dp = some { d with cursor := c } := by
  rcases storeOrDiscard_cases w s with ⟨_, _, _, e⟩ | ⟨_, _, _, e⟩ | ⟨_, _, e⟩
  · exact ⟨d.cursor + 4#15, by simp [e, datapath, h]⟩
  · exact ⟨d.cursor + 4#15, by simp [e, datapath, h]⟩
  · exact ⟨d.cursor, by rw [e, h]⟩

/-- A poll's branch leaves the ports and the record as the read left them. -/
theorem pollBranch_ports (w : Word) (s : State) :
    (pollBranch w s).busOut = s.busOut ∧ (pollBranch w s).bufOut = s.bufOut ∧ (pollBranch w s).trace = s.trace ∧
      (pollBranch w s).dp = s.dp := by
  rcases pollBranch_cases w s with ⟨_, e⟩ | ⟨_, _, e⟩ | ⟨_, _, e⟩ <;> simp [e]

/-! ### The ports and the record of one step -/

/-- The access an FSM state makes, of one of the four kinds (R24). -/
def accessOf (s : State) : Option BusAccess :=
  match s.fsm with
  | .wrCmd => some (.write8 s.params.cmdAddr (datapath s).cmd)
  | .wrCtrl => some (.write4 s.params.ctrlAddr (datapath s).ctrl)
  | .poll => some (.read4 s.params.ctrlAddr (statusWord s))
  | .drain => some (.read4 s.params.dataAddr (fifoWord s))
  | .idle | .resp | .reserved6 | .reserved7 => none

theorem accessOf_eq_some {a : BusAccess} : accessOf s = some a ↔
    (s.fsm = .wrCmd ∧ a = .write8 s.params.cmdAddr (datapath s).cmd) ∨
    (s.fsm = .wrCtrl ∧ a = .write4 s.params.ctrlAddr (datapath s).ctrl) ∨
    (s.fsm = .poll ∧ a = .read4 s.params.ctrlAddr (statusWord s)) ∨
    (s.fsm = .drain ∧ a = .read4 s.params.dataAddr (fifoWord s)) := by
  cases hf : s.fsm <;> simp [accessOf, hf, eq_comm]

theorem accessOf_eq_none : accessOf s = none ↔ inTransaction s.fsm = false := by
  cases hf : s.fsm <;> simp [accessOf, hf, inTransaction]

/-- The bus master port shows the access of the FSM state, or nothing under `rst`. -/
theorem step_busOut (h : step s = .next t) :
    t.busOut = if (sampleInputs s).rst then none else accessOf (beginStep s) := by
  cases step_cases h with
  | reset rst next => simp [rst, next]
  | waiting rst fsm _ next => simp [rst, fsm, next, accessOf]
  | request rst fsm _ _ _ next => simp [rst, fsm, (exec_cases next).frame, accessOf]
  | reserved rst fsm _ _ _ next => simp [rst, fsm, next, accessOf]
  | wrCmd rst fsm _ next => simp [rst, fsm, next, accessOf]
  | wrCtrl rst fsm _ next => simp [rst, fsm, next, accessOf]
  | poll rst fsm _ next => simp [rst, fsm, next, pollBranch_ports, accessOf]
  | drain rst fsm _ next => simp [rst, fsm, next, storeOrDiscard_frame, accessOf]
  | held rst fsm _ next => simp [rst, fsm, next, accessOf]
  | taken rst fsm _ next => simp [rst, fsm, next, accessOf]

/-- The buffer write port shows the FIFO word at the drainer's target in a DRAIN step, and else nothing. -/
theorem step_bufOut (h : step s = .next t) :
    t.bufOut = if (sampleInputs s).rst = false ∧ s.fsm = .drain then
      (drainTarget (beginStep s)).map fun off => ⟨off, fifoWord (beginStep s)⟩ else none := by
  cases step_cases h with
  | reset rst next => simp [rst, next]
  | waiting _ fsm _ next => simp [fsm, next]
  | request _ fsm _ _ _ next => simp [fsm, (exec_cases next).frame]
  | reserved _ fsm _ _ _ next => simp [fsm, next]
  | wrCmd _ fsm _ next => simp [fsm, next]
  | wrCtrl _ fsm _ next => simp [fsm, next]
  | poll _ fsm _ next => simp [fsm, next, pollBranch_ports]
  | drain rst fsm _ next => simp [rst, fsm, next, storeOrDiscard_bufOut (s := readFifo (beginStep s)) _ rfl]
  | held _ fsm _ next => simp [fsm, next]
  | taken _ fsm _ next => simp [fsm, next]

/-- The record grows by what the two ports show, the bus access first (R10, R215). -/
theorem step_trace (h : step s = .next t) :
    t.trace = s.trace ++ t.busOut.toList.map Event.bus ++ t.bufOut.toList.map Event.buf := by
  cases step_cases h with
  | reset _ next => simp [next]
  | waiting _ _ _ next => simp [next]
  | request _ _ _ _ _ next => simp [(exec_cases next).frame]
  | reserved _ _ _ _ _ next => simp [next]
  | wrCmd _ _ _ next => simp [next]
  | wrCtrl _ _ _ next => simp [next]
  | poll _ _ _ next => simp [next, pollBranch_ports]
  | drain _ _ _ next => simp [next, storeOrDiscard_trace (s := readFifo (beginStep s)) _ rfl, storeOrDiscard_frame]
  | held _ _ _ next => simp [next]
  | taken _ _ _ next => simp [next]

/-- Settles O41: the port shows `accessOf`, which has a value exactly in a transaction. -/
theorem stepMakesItsOneAccess : Obligations.StepMakesItsOneAccess := by
  intro s t h
  refine ⟨step_trace h, fun a ha => ?_, ?_⟩
  · rw [step_busOut h, Option.ite_none_left_eq_some] at ha
    exact accessOf_eq_some.1 ha.2
  · rw [step_busOut h]
    cases (sampleInputs s).rst <;> simp [accessOf_eq_none]

/-- Settles O42: the write port shows a word only at the drainer's target, the cursor below the length. -/
theorem bufferWriteOnlyInAStoringDrain : Obligations.BufferWriteOnlyInAStoringDrain := by
  intro s t h off w hw
  rw [step_bufOut h, Option.ite_none_right_eq_some] at hw
  obtain ⟨⟨hr, hf⟩, hw⟩ := hw
  obtain ⟨off', ht, he⟩ := Option.map_eq_some_iff.1 hw
  obtain ⟨rfl, rfl⟩ := BufWrite.mk.inj he
  obtain ⟨hlt, hs, ho⟩ := drainTarget_eq_some.1 ht
  exact ⟨hf, hr, ho, ho ▸ hlt, hs, rfl⟩

/-- A step that neither resets, accepts a request nor drains the FIFO leaves the datapath registers (R26, R27). -/
theorem step_dp (h : step s = .next t) (hr : (sampleInputs s).rst = false)
    (ha : s.fsm ≠ .idle ∨ (sampleInputs s).reqValid = false) (hd : s.fsm ≠ .drain) : t.dp = s.dp := by
  cases step_cases h with
  | reset rst _ => simp [rst] at hr
  | waiting _ _ _ next => simp [next]
  | request _ fsm valid _ _ _ => simp [fsm, valid] at ha
  | reserved _ fsm valid _ _ _ => simp [fsm, valid] at ha
  | wrCmd _ _ _ next => simp [next]
  | wrCtrl _ _ _ next => simp [next]
  | poll _ _ _ next => simp [next, pollBranch_ports]
  | drain _ fsm _ _ => exact absurd fsm hd
  | held _ _ _ next => simp [next]
  | taken _ _ _ next => simp [next]

/-- A DRAIN step without `rst` reads the FIFO, stores or discards the word, and polls again (R145). -/
theorem step_drain (h : step s = .next t) (hr : (sampleInputs s).rst = false) (hf : s.fsm = .drain) :
    t = setFsm .poll (storeOrDiscard (fifoWord (beginStep s)) (readFifo (beginStep s))) := by
  cases hl : paramsLegal s.params with
  | true => exact next_inj (step_of_drain hr hf hl ▸ h)
  | false => simp [step_of_illegal hr hl (by simp [hf])] at h

/-- Settles O44: only the drainer touches a register then, and of the registers only the cursor. -/
theorem datapathWrittenOnlyAtAcceptance : Obligations.DatapathWrittenOnlyAtAcceptance := by
  intro s t d h hd hr ha
  by_cases hf : s.fsm = .drain
  · obtain ⟨c, hc⟩ := storeOrDiscard_dp (s := readFifo (beginStep s)) (fifoWord (beginStep s)) hd
    exact ⟨c, by rw [step_drain h hr hf, setFsm_dp, hc], absurd hf⟩
  · exact ⟨d.cursor, (step_dp h hr ha hf).trans hd, fun _ => rfl⟩

end Sys2Proof.Machine

/-! The statements on memory: the response buffer, the lanes of a bus access, and the register addresses. -/

namespace Sys2Proof.Machine

variable {s t : State}

/-! ### What one step does to the response buffer (R68) -/

/-- A poll's branch leaves the buffer alone. -/
theorem pollBranch_buffer (w : Word) (s : State) : (pollBranch w s).buffer = s.buffer := by
  rcases pollBranch_cases w s with ⟨_, e⟩ | ⟨_, _, e⟩ | ⟨_, _, e⟩ <;> simp [e]

/-- The buffer takes the word that the write port shows. -/
theorem storeOrDiscard_buffer (w : Word) (h : s.bufOut = none) :
    (storeOrDiscard w s).buffer =
      (storeOrDiscard w s).bufOut.elim s.buffer fun o => bufStore s.buffer o.off.toNat o.data := by
  rcases storeOrDiscard_cases w s with ⟨_, _, _, e⟩ | ⟨_, _, _, e⟩ | ⟨_, _, e⟩ <;> simp [e, h]

/-- A step stores the word that the write port shows, and a step that shows none leaves the buffer (R23, R68). -/
theorem step_buffer (h : step s = .next t) :
    t.buffer = t.bufOut.elim s.buffer fun o => bufStore s.buffer o.off.toNat o.data := by
  cases step_cases h with
  | reset _ next => simp [next]
  | waiting _ _ _ next => simp [next]
  | request _ _ _ _ _ next => simp [(exec_cases next).frame]
  | reserved _ _ _ _ _ next => simp [next]
  | wrCmd _ _ _ next => simp [next]
  | wrCtrl _ _ _ next => simp [next]
  | poll _ _ _ next => simp [next, pollBranch_ports, pollBranch_buffer]
  | drain _ _ _ next => simp [next, storeOrDiscard_buffer (s := readFifo (beginStep s)) _ rfl]
  | held _ _ _ next => simp [next]
  | taken _ _ _ next => simp [next]

/-- A DRAIN step with a target stores the FIFO word there. -/
theorem step_buffer_of_stored {off : BitVec 15} (h : step s = .next t) (hf : s.fsm = .drain)
    (hr : (sampleInputs s).rst = false) (hd : drainTarget (beginStep s) = some off) :
    t.buffer = bufStore s.buffer off.toNat (fifoWord (beginStep s)) := by
  have port : t.bufOut = some ⟨off, fifoWord (beginStep s)⟩ := by simp [step_bufOut h, hr, hf, hd]
  simp [step_buffer h, port]

/-- Every other step leaves the buffer. -/
theorem step_buffer_of_not_stored (h : step s = .next t)
    (hn : s.fsm ≠ .drain ∨ (sampleInputs s).rst = true ∨ drainTarget (beginStep s) = none) : t.buffer = s.buffer := by
  have port : t.bufOut = none := by
    rw [step_bufOut h]
    rcases hn with hf | hr | hd
    · simp [hf]
    · simp [hr]
    · simp [hd]
  simp [step_buffer h, port]

/-- Settles O43: the buffer after a storing step is `bufStore` at the target, which writes its own four bytes only. -/
theorem stepChangesOnlyTheStoredBytes : Obligations.StepChangesOnlyTheStoredBytes := by
  intro s t h
  refine ⟨fun off hf hr hd => ?_, fun hn a => by rw [step_buffer_of_not_stored h hn]⟩
  rw [step_buffer_of_stored h hf hr hd]
  exact ⟨fun _ hk => read_bufStore _ _ _ hk, fun _ ha => read_bufStore_other _ _ _ ha⟩

/-! ### Buffer words lie below the declared length (R69) -/

/-- Every valid response length is a whole number of words (R94, R98). -/
theorem blkSize_dvd {n : Word} {b : BitVec 3} (h : blkSize n = some b) : 4 ∣ n.toNat := by
  have words : ∀ e ∈ blockSizes, 4 ∣ e.1.toNat := by simp [blockSizes]
  obtain ⟨_, _, split, -⟩ := List.lookup_eq_some_iff.1 h
  exact words (n, b) (by simp [split])

/-- So is the length of a transaction in progress. -/
theorem DatapathOk.four_dvd_len {p : Params} {d : Datapath} (h : DatapathOk p d) : 4 ∣ d.len.toNat := by
  obtain ⟨f, cw, he, -, hlen, -⟩ := h.started
  obtain ⟨b, hb, -⟩ := encodeFlags_eq_some.1 he
  have words := blkSize_dvd hb
  rwa [← hlen, BitVec.toNat_setWidth_of_le (by decide)] at words

/-- Settles O55: a word is stored at the cursor, which is below the length; both are multiples of 4. -/
theorem bufferWritesStayBelowTheLength : Obligations.BufferWritesStayBelowTheLength := by
  intro s t d hi hd h off w hw
  obtain ⟨-, -, rfl, hlt, -⟩ := bufferWriteOnlyInAStoringDrain s t h off w hw
  rw [datapath_of_some (s := beginStep s) hd] at hlt ⊢
  have aligned := (hi.datapath_ok d hd).cursor_aligned
  have words := (hi.datapath_ok d hd).four_dvd_len
  have below : d.cursor.toNat + 4 ≤ d.len.toNat := by omega
  exact ⟨aligned, below, fun l ⟨capacity, base⟩ => ⟨by omega, below.trans capacity⟩⟩

/-! ### The lanes of an access (R62) -/

theorem accessLanes_length (a : BusAccess) : (accessLanes a).length = accessSize a := by
  cases a <;> simp [accessLanes, accessSize]

theorem accessLanes_write8_getElem? (a : Nat) (v : DWord) {k : Nat} (hk : k < 8) :
    (accessLanes (.write8 a v))[k]? = some (a + k, byteOf v k) := by
  simp [accessLanes, hk]

theorem accessLanes_write4_getElem? (a : Nat) (v : Word) {k : Nat} (hk : k < 4) :
    (accessLanes (.write4 a v))[k]? = some (a + k, byteOf v k) := by
  simp [accessLanes, hk]

theorem accessLanes_read4_getElem? (a : Nat) (v : Word) {k : Nat} (hk : k < 4) :
    (accessLanes (.read4 a v))[k]? = some (a + k, byteOf v k) := by
  simp [accessLanes, hk]

/-- Settles O48: lane `k` of each kind of access is `byteOf` its value. -/
theorem accessLanesAreLittleEndian : Obligations.AccessLanesAreLittleEndian :=
  ⟨fun a v => ⟨accessLanes_length _, fun _ hk => accessLanes_write8_getElem? a v hk⟩,
    fun a v => ⟨accessLanes_length _, fun _ hk => accessLanes_write4_getElem? a v hk⟩,
    fun a v => ⟨accessLanes_length _, fun _ hk => accessLanes_read4_getElem? a v hk⟩⟩

/-! ### The Command register (R33, R63) -/

/-- The newest Command write is the one just made. -/
@[simp] theorem commandWritten_writeCommand (v : DWord) (s : State) : commandWritten (writeCommand v s) = some v := by
  simp [commandWritten]

@[simp] theorem commandWritten_setFsm (x : Fsm) (s : State) : commandWritten (setFsm x s) = commandWritten s := rfl

/-- A WR_CMD step without `rst` writes `cmd_q` to the Command register (R142). -/
theorem step_wrCmd (h : step s = .next t) (hr : (sampleInputs s).rst = false) (hf : s.fsm = .wrCmd) :
    t = setFsm .wrCtrl (writeCommand (datapath (beginStep s)).cmd (beginStep s)) := by
  cases hl : paramsLegal s.params with
  | true => exact next_inj (step_of_wrCmd hr hf hl ▸ h)
  | false => simp [step_of_illegal hr hl (by simp [hf])] at h

/-- Settles O49: the access is the 8-byte write of `cmd_q` at `CMD_ADDR`. -/
theorem descriptorBytesGoToTheirLanes : Obligations.DescriptorBytesGoToTheirLanes := by
  intro s t d hf hd hr h
  obtain rfl := step_wrCmd h hr hf
  rw [datapath_of_some (s := beginStep s) hd]
  exact ⟨by simp, .write8 s.params.cmdAddr d.cmd, rfl, rfl, fun _ hi => accessLanes_write8_getElem? _ _ hi⟩

/-! ### The register addresses (R61, R66) -/

/-- Two ranges that are not empty are disjoint exactly when no address lies in both: the greater of their two bases
would be the first. -/
theorem disjoint_iff {a n b m : Nat} (hn : 0 < n) (hm : 0 < m) :
    disjoint a n b m = true ↔ ∀ x, ¬((a ≤ x ∧ x < a + n) ∧ (b ≤ x ∧ x < b + m)) := by
  simp only [disjoint, Bool.or_eq_true, decide_eq_true_eq]
  constructor
  · intro apart x
    omega
  · intro noCommon
    have := noCommon (max a b)
    omega

/-- Settles O50: the check tests the nine requirements in their order, disjointness by `disjoint_iff`. -/
theorem legalParametersAreDisjointAndAligned : Obligations.LegalParametersAreDisjointAndAligned := by
  intro p
  simp only [paramsLegal, Bool.and_eq_true, beq_iff_eq, decide_eq_true_eq, and_assoc,
    disjoint_iff (n := 8) (m := 4) (by decide) (by decide), disjoint_iff (n := 4) (m := 4) (by decide) (by decide)]

end Sys2Proof.Machine

/-! The statements on the encoding of requests: the decoder, the text form, the block-size table, the written Control
value, and which requests are answered InvalidArgument. -/

namespace Sys2Proof

/-! ### The decoder (R90, R102) -/

section
variable {r : Request}

theorem decodeRequest_of_op_execute (h : r.op = 0#2) : decodeRequest r = .ok (.execute r.cmd r.cmdLen r.flags) := by
  simp [decodeRequest, h]

theorem decodeRequest_of_op_reset (h : r.op = 1#2) : decodeRequest r = .ok (.reset r.scratchOk) := by
  simp [decodeRequest, h]

theorem decodeRequest_of_op_encode (h : r.op = 2#2) : decodeRequest r = .ok (.encode r.flags) := by
  simp [decodeRequest, h]

theorem decodeRequest_of_op_reserved (h : r.op = 3#2) : decodeRequest r = .error .reservedOp := by
  simp [decodeRequest, h]

end

/-- The port sample that offers a request decodes to it. -/
@[simp] theorem decodeRequest_request (i : Instr) : decodeRequest i.request = .ok i := by
  cases i with
  | execute cmd cmdLen f => exact decodeRequest_of_op_execute rfl
  | reset scratchOk => exact decodeRequest_of_op_reset rfl
  | encode f => exact decodeRequest_of_op_encode rfl

/-- Settles O1: the word keeps every input of the port, and the port sample decodes to its request. -/
theorem decodeOfEncodeIsTheRequest : Obligations.DecodeOfEncodeIsTheRequest := fun i => by
  rw [decode, encode, Request.ofBits_bits, decodeRequest_request]

/-- Settles O3: one equation of the decoder for each code. -/
theorem reqOpSelectsTheRequest : Obligations.ReqOpSelectsTheRequest := fun _ =>
  ⟨decodeRequest_of_op_execute, decodeRequest_of_op_reset, decodeRequest_of_op_encode, decodeRequest_of_op_reserved⟩

/-- Settles O4: the decoder run on each of the five words. -/
theorem writtenOutWordsDecode : Obligations.WrittenOutWordsDecode :=
  ⟨by decide, by decide, by decide, by decide, by decide⟩

end Sys2Proof

namespace Sys2Proof.Machine

variable {s t : State}

/-- Settles O5: the reader run on each of the four lines. -/
theorem textFormFillsDefaults : Obligations.TextFormFillsDefaults :=
  ⟨by decide, by decide, by decide, by decide⟩

/-! ### The block-size table (R94, R95, R98, R99) -/

section
variable {n m : Word} {b : BitVec 3}

/-- The map has the values of its table: no length has two rows. -/
theorem blkSize_eq_some_iff_mem : blkSize n = some b ↔ (n, b) ∈ blockSizes := by
  have rows : ∀ e ∈ blockSizes, blkSize e.1 = some e.2 := by simp [blockSizes, blkSize, List.lookup]
  constructor
  · intro h
    obtain ⟨_, _, split, -⟩ := List.lookup_eq_some_iff.1 h
    simp [split]
  · exact rows (n, b)

/-- The map is defined exactly for the valid lengths. -/
theorem blkSize_isSome (n : Word) : (blkSize n).isSome = validLen n := by
  rw [Bool.eq_iff_iff, blkSize, List.lookup_isSome_iff, validLen]
  simp only [List.contains_iff_mem, List.mem_map, beq_iff_eq, eq_comm (a := n)]

/-- The length that a code means is the one that the map takes to it. -/
theorem blockLength_of_blkSize (h : blkSize n = some b) : blockLength b = n.toNat := by
  have rows : ∀ e ∈ blockSizes, blockLength e.2 = e.1.toNat := by simp [blockSizes, blockLength]
  exact rows (n, b) (blkSize_eq_some_iff_mem.1 h)

/-- Every code is the code of the length it means. -/
theorem blkSize_blockLength (b : BitVec 3) : blkSize (BitVec.ofNat 32 (blockLength b)) = some b := by
  revert b
  decide

/-- No two lengths share a code. -/
theorem blkSize_injective (hn : blkSize n = some b) (hm : blkSize m = some b) : n = m :=
  BitVec.eq_of_toNat_eq ((blockLength_of_blkSize hn).symm.trans (blockLength_of_blkSize hm))

/-- A valid length is a whole number of words and fits `len_q` (R94). -/
theorem toNat_of_validLen (h : validLen n = true) : n.toNat % 4 = 0 ∧ n.toNat < 2 ^ 15 := by
  have rows : ∀ e ∈ blockSizes, e.1.toNat % 4 = 0 ∧ e.1.toNat < 2 ^ 15 := by simp [blockSizes]
  obtain ⟨b, hb⟩ := Option.isSome_iff_exists.1 ((blkSize_isSome n).trans h)
  exact rows (n, b) (blkSize_eq_some_iff_mem.1 hb)

end

/-- The encoder has a value exactly for a valid length (R121). -/
theorem encodeFlags_isSome_eq_validLen (f : OpFlags) : (encodeFlags f).isSome = validLen f.len := by
  rw [encodeFlags_isSome, blkSize_isSome]

/-- Settles O6: the valid lengths are the first column of the table. -/
theorem validLengthsAreTheEight : Obligations.ValidLengthsAreTheEight := by
  refine ⟨fun n => ?_, fun n => toNat_of_validLen, encodeFlags_isSome_eq_validLen⟩
  simp only [validLen, blockSizes, List.map_cons, List.map_nil, List.contains_iff_mem, List.mem_cons, List.not_mem_nil]
  tauto

/-- Settles O7: the map is its table, and `blockLength` inverts it. -/
theorem blockSizeTableIsABijection : Obligations.BlockSizeTableIsABijection := by
  refine ⟨fun n b => ?_, blkSize_isSome, fun n m b => blkSize_injective, fun b => ⟨_, blkSize_blockLength b⟩⟩
  rw [blkSize_eq_some_iff_mem]
  simp [blockSizes]

/-- Settles O8: by the table, and for the codes 1 to 6 by the formula at each. -/
theorem blockLengthInvertsBlockSize : Obligations.BlockLengthInvertsBlockSize :=
  ⟨fun _ _ => blockLength_of_blkSize, rfl, rfl, by decide⟩

/-! ### The Control Word as one concatenation (R96, R120) -/

/-- A field of two parts is its parts at their positions. -/
theorem fieldAt_append {m n : Nat} (pos : Nat) (x : BitVec m) (y : BitVec n) :
    fieldAt pos (x ++ y) = fieldAt (n + pos) x ||| fieldAt pos y := by
  apply BitVec.eq_of_getLsbD_eq
  intro i hi
  simp only [BitVec.getLsbD_or, fieldAt_getLsbD, BitVec.getLsbD_append, hi, decide_true, Bool.true_and]
  by_cases below : i < pos
  · simp [show ¬ pos ≤ i by omega, show ¬ n + pos ≤ i by omega]
  · by_cases lower : i - pos < n
    · simp [lower, show ¬ n + pos ≤ i by omega]
    · have absent : y.getLsbD (i - pos) = false := BitVec.getLsbD_of_ge _ _ (by omega)
      simp [lower, absent, show pos ≤ i by omega, show n + pos ≤ i by omega, Nat.sub_sub, Nat.add_comm]

@[simp] theorem fieldAt_zero (pos n : Nat) : fieldAt pos (0#n) = 0#32 := by
  simp [fieldAt]

/-- A word is its own field at position 0. -/
theorem fieldAt_word (w : Word) : fieldAt 0 w = w := by
  simp [fieldAt]

/-- A Control register value: the fields of R96 side by side under its top four bits, for the flags `f` with
BLK_SIZE `b`. -/
def controlLayout (top : BitVec 4) (f : OpFlags) (b : BitVec 3) : Word :=
  top ++ BitVec.ofBool f.slow ++ b ++ 0#1 ++ BitVec.ofBool f.cenc ++ f.post.extractLsb' 0 6 ++ 0#1 ++
    BitVec.ofBool (f.cenc || f.renc) ++ BitVec.ofBool f.renc ++ f.pre.extractLsb' 0 13

theorem controlLayout_eq_or (top : BitVec 4) (f : OpFlags) (b : BitVec 3) : controlLayout top f b =
    fieldAt 28 top ||| fieldAt 27 (BitVec.ofBool f.slow) ||| fieldAt 24 b ||| fieldAt 22 (BitVec.ofBool f.cenc) |||
      fieldAt 16 (f.post.extractLsb' 0 6) ||| fieldAt 14 (BitVec.ofBool (f.cenc || f.renc)) |||
      fieldAt 13 (BitVec.ofBool f.renc) ||| fieldAt 0 (f.pre.extractLsb' 0 13) := by
  rw [← fieldAt_word (controlLayout top f b), controlLayout]
  iterate 9 rw [fieldAt_append]
  simp only [fieldAt_zero, BitVec.or_zero, Nat.reduceAdd]

/-- The encoder lays the fields out under four zero bits. -/
theorem encodeFlags_eq_some_iff_layout {f : OpFlags} {cw : Word} :
    encodeFlags f = some cw ↔ ∃ b, blkSize f.len = some b ∧ cw = controlLayout 0#4 f b := by
  simp only [encodeFlags_eq_some, controlLayout_eq_or, fieldAt_zero, BitVec.zero_or]

/-- The written value has ACTIVATE and RESET_HIGH in those four bits (R97). -/
theorem controlValue_controlLayout (f : OpFlags) (b : BitVec 3) :
    controlValue (controlLayout 0#4 f b) = controlLayout 0xA#4 f b := by
  rw [controlValue, BitVec.or_comm, show startBits = fieldAt 28 0xA#4 by decide]
  simp only [controlLayout_eq_or, fieldAt_zero, BitVec.zero_or, BitVec.or_assoc]

/-- Settles O15: each field of the written value is read out of the concatenation. -/
theorem controlValueFields : Obligations.ControlValueFields := by
  intro f cw h
  obtain ⟨b, hb, rfl⟩ := encodeFlags_eq_some_iff_layout.1 h
  rw [controlValue_controlLayout, hb]
  simp only [controlLayout, extract_append_high, extract_append_low, get_append_high, get_append_low,
    Nat.reduceLeDiff, Nat.reduceSub, le_refl, true_and, and_true]
  exact ⟨rfl, rfl, rfl, rfl, get_append_low _ false, get_append_low _ false⟩

/-! ### Which requests are answered InvalidArgument (R92, R95, R102, R206) -/

theorem wellFormed_execute (cmd : DWord) (n : Word) (f : OpFlags) :
    (Instr.execute cmd n f).wellFormed ↔ n = descriptorLength ∧ validLen f.len = true := by
  simp [Instr.wellFormed, Instr.illFormed]

theorem wellFormed_reset (scratchOk : Bool) : (Instr.reset scratchOk).wellFormed := rfl

theorem wellFormed_encode (f : OpFlags) : (Instr.encode f).wellFormed ↔ validLen f.len = true := by
  simp [Instr.wellFormed, Instr.illFormed]

theorem encodeFlags_eq_none {f : OpFlags} : encodeFlags f = none ↔ validLen f.len = false := by
  rw [← encodeFlags_isSome_eq_validLen, Option.isSome_eq_false_iff, Option.isNone_iff_eq_none]

theorem exists_encodeFlags_of_validLen {f : OpFlags} (h : validLen f.len = true) : ∃ cw, encodeFlags f = some cw :=
  Option.isSome_iff_exists.1 ((encodeFlags_isSome_eq_validLen f).trans h)

/-- An ill-formed request is rejected. -/
theorem exec_of_illFormed {i : Instr} (hi : s.fsm = .idle) (h : ¬ i.wellFormed) :
    exec i s = .next (raise .invalidArgument s) := by
  cases i with
  | execute cmd n f =>
    rw [exec, execExecute, whenIdle_of_idle hi]
    by_cases hn : n = descriptorLength
    · have bad : encodeFlags f = none := encodeFlags_eq_none.2 (by simpa [wellFormed_execute, hn] using h)
      simp [hn, bad]
    · simp [hn]
  | reset scratchOk => exact absurd (wellFormed_reset scratchOk) h
  | encode f =>
    have bad : encodeFlags f = none := encodeFlags_eq_none.2 (by simpa [wellFormed_encode] using h)
    rw [exec, execEncode, whenIdle_of_idle hi, bad]

/-- A well-formed request starts a transaction, or it is answered OK or ResourceExhausted. -/
theorem exec_of_wellFormed {i : Instr} (hi : s.fsm = .idle) (hw : i.wellFormed) (h : exec i s = .next t) :
    t.fsm = .wrCmd ∨ t.statusQ = statusOk ∨ t.statusQ = errorCode .resourceExhausted := by
  cases i with
  | execute cmd n f =>
    obtain ⟨hn, hl⟩ := (wellFormed_execute cmd n f).1 hw
    obtain ⟨cw, good⟩ := exists_encodeFlags_of_validLen hl
    rw [exec, execExecute, whenIdle_of_idle hi, if_pos hn, good] at h
    obtain ⟨-, rfl⟩ := start_eq_next.1 h
    exact .inl rfl
  | reset scratchOk =>
    rw [exec, execReset, whenIdle_of_idle hi] at h
    cases scratchOk with
    | true =>
      obtain ⟨cw, good⟩ := exists_encodeFlags_of_validLen (f := resetFlags s.params) rfl
      rw [if_pos rfl, good] at h
      obtain ⟨-, rfl⟩ := start_eq_next.1 h
      exact .inl rfl
    | false =>
      obtain rfl := next_inj h
      exact .inr (.inr rfl)
  | encode f =>
    obtain ⟨cw, good⟩ := exists_encodeFlags_of_validLen ((wellFormed_encode f).1 hw)
    rw [exec, execEncode, whenIdle_of_idle hi, good] at h
    obtain rfl := next_inj h
    exact .inr (.inl rfl)

/-- Settles O22: an ill-formed request is rejected, and a well-formed one never ends with that status in RESP. -/
theorem illFormedIsInvalidArgument : Obligations.IllFormedIsInvalidArgument := by
  intro i s t hi h
  constructor
  · rintro ⟨hf, hs⟩ hw
    rcases exec_of_wellFormed hi hw h with started | ok | exhausted
    · simp [hf] at started
    · simp [hs, statusOk] at ok
    · simp [hs, errorCode] at exhausted
  · intro bad
    obtain rfl := next_inj ((exec_of_illFormed hi bad).symm.trans h)
    exact ⟨rfl, rfl⟩

end Sys2Proof.Machine

/-! The statements on the operation-flag encoder: the fields of the Control Word, what they determine, and ENCODE. -/

namespace Sys2Proof.Machine

/-! ### The fields of a Control register value (R96)

Each is read out of the concatenation by passing the fields below it. -/

section
variable (top : BitVec 4) (f : OpFlags) (b : BitVec 3)

@[simp] theorem controlLayout_top : (controlLayout top f b).extractLsb' 28 4 = top := by
  simp only [controlLayout, extract_append_high, Nat.reduceLeDiff, Nat.reduceSub, BitVec.extractLsb'_eq_self]

@[simp] theorem controlLayout_slow : (controlLayout top f b)[27] = f.slow := by
  simp only [← BitVec.getLsbD_eq_getElem, controlLayout, get_append_high, get_append_low,
    Nat.reduceLeDiff, Nat.reduceSub]

@[simp] theorem controlLayout_blkSize : (controlLayout top f b).extractLsb' 24 3 = b := by
  simp only [controlLayout, extract_append_high, extract_append_low, Nat.reduceLeDiff, Nat.reduceSub]

@[simp] theorem controlLayout_bit23 : (controlLayout top f b)[23] = false := by
  simp only [← BitVec.getLsbD_eq_getElem, controlLayout, get_append_high, Nat.reduceLeDiff, Nat.reduceSub]
  exact get_append_low _ false

@[simp] theorem controlLayout_cenc : (controlLayout top f b)[22] = f.cenc := by
  simp only [← BitVec.getLsbD_eq_getElem, controlLayout, get_append_high, get_append_low,
    Nat.reduceLeDiff, Nat.reduceSub]

@[simp] theorem controlLayout_post : (controlLayout top f b).extractLsb' 16 6 = f.post.extractLsb' 0 6 := by
  simp only [controlLayout, extract_append_high, extract_append_low, Nat.reduceLeDiff, Nat.reduceSub]

@[simp] theorem controlLayout_bit15 : (controlLayout top f b)[15] = false := by
  simp only [← BitVec.getLsbD_eq_getElem, controlLayout, get_append_high, Nat.reduceLeDiff, Nat.reduceSub]
  exact get_append_low _ false

@[simp] theorem controlLayout_security : (controlLayout top f b)[14] = (f.cenc || f.renc) := by
  simp only [← BitVec.getLsbD_eq_getElem, controlLayout, get_append_high, get_append_low,
    Nat.reduceLeDiff, Nat.reduceSub]

@[simp] theorem controlLayout_renc : (controlLayout top f b)[13] = f.renc := by
  simp only [← BitVec.getLsbD_eq_getElem, controlLayout, get_append_high, get_append_low, Nat.reduceSub, le_refl]

@[simp] theorem controlLayout_pre : (controlLayout top f b).extractLsb' 0 13 = f.pre.extractLsb' 0 13 := by
  simp only [controlLayout, extract_append_low]

end

/-- The top bits, the code of the length and the reduced flags are all that a value says, and it says all of them
(R127). -/
theorem controlLayout_inj {top top' : BitVec 4} {f g : OpFlags} {b c : BitVec 3} :
    controlLayout top f b = controlLayout top' g c ↔
      top = top' ∧ b = c ∧ f.pre.extractLsb' 0 13 = g.pre.extractLsb' 0 13 ∧
        f.post.extractLsb' 0 6 = g.post.extractLsb' 0 6 ∧ f.cenc = g.cenc ∧ f.renc = g.renc ∧ f.slow = g.slow := by
  constructor
  · intro same
    have field (k w : Nat) := congrArg (BitVec.extractLsb' k w) same
    have bit (k : Nat) := congrArg (BitVec.getLsbD · k) same
    exact ⟨by simpa using field 28 4, by simpa using field 24 3, by simpa using field 0 13, by simpa using field 16 6,
      by simpa using bit 22, by simpa using bit 13, by simpa using bit 27⟩
  · rintro ⟨rfl, rfl, pre, post, cenc, renc, slow⟩
    simp only [controlLayout, pre, post, cenc, renc, slow]

/-! ### The laws of the encoder (R120 to R127) -/

/-- Settles O9: `controlLayout` is the concatenation. -/
theorem encodePacksTheFields : Obligations.EncodePacksTheFields := by
  intro f valid
  obtain ⟨cw, h⟩ := exists_encodeFlags_of_validLen valid
  obtain ⟨b, hb, rfl⟩ := encodeFlags_eq_some_iff_layout.1 h
  exact ⟨b, hb, h⟩

/-- Bits 26:24 of an encoding are the code of the length. -/
theorem blkSize_of_encodeFlags {f : OpFlags} {cw : Word} (h : encodeFlags f = some cw) :
    blkSize f.len = some (cw.extractLsb' 24 3) := by
  obtain ⟨b, hb, rfl⟩ := encodeFlags_eq_some_iff_layout.1 h
  rw [hb, controlLayout_blkSize]

/-- Settles O10: the field is the code of the length, by the table at each of the eight. -/
theorem encodeBlockSizeLaw : Obligations.EncodeBlockSizeLaw := by
  intro f cw h
  have code (n : Word) (c : BitVec 3) (row : blkSize n = some c) (hn : f.len = n) : cw.extractLsb' 24 3 = c :=
    Option.some.inj ((blkSize_of_encodeFlags h).symm.trans (hn ▸ row))
  exact ⟨code _ _ rfl, code _ _ rfl, code _ _ rfl, code _ _ rfl, code _ _ rfl, code _ _ rfl, code _ _ rfl,
    code _ _ rfl⟩

/-- Settles O11: the three bits are read out of the concatenation. -/
theorem encodeSecurityLaw : Obligations.EncodeSecurityLaw := by
  intro f cw h
  obtain ⟨b, -, rfl⟩ := encodeFlags_eq_some_iff_layout.1 h
  exact ⟨by simp [controlLayout_security], controlLayout_cenc .., controlLayout_renc ..⟩

/-- Settles O12: each delay field is the low bits of the delay, at the boundary and one above it too. -/
theorem encodeDelayLaw : Obligations.EncodeDelayLaw := by
  intro f valid
  obtain ⟨cw, h⟩ := exists_encodeFlags_of_validLen valid
  obtain ⟨b, -, rfl⟩ := encodeFlags_eq_some_iff_layout.1 h
  refine ⟨_, h, ?_⟩
  rw [controlLayout_pre, controlLayout_post]
  exact ⟨BitVec.extractLsb'_toNat .., BitVec.extractLsb'_toNat .., fun hp => hp ▸ rfl, fun hp => hp ▸ rfl,
    fun hp => hp ▸ rfl, fun hp => hp ▸ rfl⟩

/-- A mask over one field keeps that field alone. -/
theorem and_fieldAt {n : Nat} (w : Word) (pos : Nat) (v : BitVec n) :
    w &&& fieldAt pos v = fieldAt pos (w.extractLsb' pos n &&& v) := by
  apply BitVec.eq_of_getLsbD_eq
  intro i hi
  simp only [BitVec.getLsbD_and, fieldAt_getLsbD, BitVec.getLsbD_extractLsb', hi, decide_true, Bool.true_and]
  by_cases below : i < pos
  · simp [show ¬ pos ≤ i by omega]
  · by_cases inside : i - pos < n
    · simp [inside, show pos ≤ i by omega]
    · simp [show n ≤ i - pos by omega]

/-- A field of one bit is that bit. -/
theorem extract_one {n : Nat} (x : BitVec n) (k : Nat) : x.extractLsb' k 1 = BitVec.ofBool (x.getLsbD k) := by
  apply BitVec.eq_of_getLsbD_eq
  intro i hi
  obtain rfl : i = 0 := by omega
  simp

/-- Settles O13: the mask lies over the three fields that are constant zeros. -/
theorem encodeZeroBitsLaw : Obligations.EncodeZeroBitsLaw := by
  intro f cw h
  obtain ⟨b, -, rfl⟩ := encodeFlags_eq_some_iff_layout.1 h
  have mask : 0xF0808000#32 = fieldAt 28 0xF#4 ||| (fieldAt 23 1#1 ||| fieldAt 15 1#1) := by decide
  rw [mask, BitVec.and_or_distrib_left, BitVec.and_or_distrib_left]
  simp [and_fieldAt, extract_one]

/-- Two encodings have one code exactly for one length. -/
theorem blkSize_code_inj {n m : Word} {b c : BitVec 3} (hn : blkSize n = some b) (hm : blkSize m = some c) :
    b = c ↔ n = m := by
  constructor
  · rintro rfl
    exact blkSize_injective hn hm
  · rintro rfl
    exact Option.some.inj (hn.symm.trans hm)

/-- Settles O14: a Control Word is its fields, and the code of a length determines it. -/
theorem encodeDeterminationLaw : Obligations.EncodeDeterminationLaw := by
  intro f g cw cw' hf hg
  obtain ⟨b, hb, rfl⟩ := encodeFlags_eq_some_iff_layout.1 hf
  obtain ⟨c, hc, rfl⟩ := encodeFlags_eq_some_iff_layout.1 hg
  refine ⟨?_, by simp only [controlLayout_top], (controlLayout_bit23 ..).trans (controlLayout_bit23 ..).symm,
    (controlLayout_bit15 ..).trans (controlLayout_bit15 ..).symm, by simp [controlLayout_security]⟩
  rw [controlLayout_inj, blkSize_code_inj hb hc, eq_self, true_and]

/-! ### The ENCODE request (R130) -/

/-- ENCODE of flags that encode is answered OK with the encoding. -/
theorem exec_encode_of_some {s : State} {f : OpFlags} {cw : Word} (hi : s.fsm = .idle) (h : encodeFlags f = some cw) :
    exec (.encode f) s = .next (respond statusOk cw s) := by
  rw [exec, execEncode, whenIdle_of_idle hi, h]

/-- Settles O16: a valid length encodes, and ENCODE with another is ill-formed. -/
theorem encodeRequestAnswers : Obligations.EncodeRequestAnswers := by
  intro s f hi
  constructor
  · intro valid
    obtain ⟨cw, h⟩ := exists_encodeFlags_of_validLen valid
    exact ⟨cw, h, exec_encode_of_some hi h⟩
  · intro invalid
    exact exec_of_illFormed hi (by simp [wellFormed_encode, invalid])

end Sys2Proof.Machine

/-! The statements on one request or one step of the command transport: what acceptance does, and the transition of each
FSM state. -/

namespace Sys2Proof.Machine

variable {s t : State}

/-! ### The acceptance of a request (R140, R151) -/

/-- EXECUTE of flags that encode starts a transaction for the caller. -/
theorem exec_execute_of_some {cmd : DWord} {f : OpFlags} {cw : Word} (hi : s.fsm = .idle)
    (h : encodeFlags f = some cw) : exec (.execute cmd 8#32 f) s = start cmd cw f.len .caller s := by
  rw [exec, execExecute, whenIdle_of_idle hi, if_pos (show 8#32 = descriptorLength from rfl), h]

/-- Settles O17: a valid length encodes, and the transaction that EXECUTE starts is not refused. -/
theorem executeRequestStarts : Obligations.ExecuteRequestStarts := by
  intro s cmd f hi legal valid
  obtain ⟨cw, h⟩ := exists_encodeFlags_of_validLen valid
  exact ⟨cw, h, (exec_execute_of_some hi h).trans (start_eq_next.2 ⟨legal, rfl⟩)⟩

/-- Settles O18: such a request is ill-formed. -/
theorem executeRejectsBadArguments : Obligations.ExecuteRejectsBadArguments := by
  intro s cmd n f hi bad
  refine exec_of_illFormed hi fun wellFormed => ?_
  obtain ⟨hn, valid⟩ := (wellFormed_execute cmd n f).1 wellFormed
  rcases bad with other | invalid
  · exact other hn
  · simp [valid] at invalid

/-- Settles O21: a request leaves the state, answers it, or starts a transaction in it. -/
theorem requestFrame : Obligations.RequestFrame := by
  intro i s t h
  cases exec_cases h with
  | busy _ next => simp [next]
  | answered _ _ _ next _ =>
    subst next
    exact ⟨rfl, fun _ => rfl, fun _ => ⟨rfl, rfl, rfl, rfl, rfl⟩, by simp⟩
  | started _ _ _ _ _ _ _ _ next =>
    subst next
    exact ⟨rfl, fun _ => rfl, by simp, fun _ => ⟨rfl, rfl⟩⟩

/-- Settles O25: the word on the port is decoded from the port's inputs. -/
theorem stepRunsTheOfferedRequest : Obligations.StepRunsTheOfferedRequest := by
  intro s b hi hr hv hb
  rw [step_of_request hr hi hv, hb, ← decode]
  exact ⟨fun i hd => by rw [hd], fun hd => by rw [hd]; rfl⟩

theorem decode_of_decodeTableWord {nbits w : Nat} {i : Instr} (h : decodeTableWord nbits w = some i) :
    decode (tableWord nbits w) = .ok i := by
  unfold decodeTableWord at h
  cases hd : decode (tableWord nbits w) with
  | ok j => simpa [hd, Except.toOption] using h
  | error e => simp [hd, Except.toOption] at h

/-- Settles O26: the table word is the next sample's request, and the step uses that sample up. -/
theorem fetchWordRunsNext : Obligations.FetchWordRunsNext := by
  intro s nbits w i h
  have sample := sampleInputs_script (s := s.withFetchWord nbits w)
    ⟨false, true, Request.ofBits (tableWord nbits w), false⟩ s.host.pending s.host.cycle rfl
  obtain ⟨runs, -⟩ := stepRunsTheOfferedRequest (s.withFetchWord nbits w) (tableWord nbits w) rfl
    (by rw [sample]) (by rw [sample]) (by rw [sample])
  exact ⟨runs i (decode_of_decodeTableWord h), rfl⟩

/-! ### The transition of each FSM state (R141 to R148) -/

/-- Settles O28: without a request the step of IDLE is its beginning. -/
theorem idleWaits : Obligations.IdleWaits := fun _ hi hr hv => step_of_quiet hr hi hv

/-- Settles O29: the written value is `cmd_q`. -/
theorem wrCmdWritesTheDescriptor : Obligations.WrCmdWritesTheDescriptor := by
  intro s d hf hd legal hr
  rw [step_of_wrCmd hr hf legal, datapath_of_some (s := beginStep s) hd]
  rfl

/-- Settles O30: the written value is `ctrl_q`. -/
theorem wrCtrlStartsTheTransaction : Obligations.WrCtrlStartsTheTransaction := by
  intro s d hf hd legal hr
  rw [step_of_wrCtrl hr hf legal, datapath_of_some (s := beginStep s) hd]
  rfl

/-- Settles O31: the three branches of a poll, after its status read. -/
theorem pollBranchesOnTheStatus : Obligations.PollBranchesOnTheStatus := by
  intro s d hf hd legal hr w t
  have reg : datapath (readControl (beginStep s)) = d := datapath_of_some hd
  have next := step_of_poll hr hf legal
  rcases pollBranch_cases w (readControl (beginStep s)) with ⟨idle, e⟩ | ⟨busy, ready, e⟩ | ⟨busy, empty, e⟩
  · rw [e, reg] at next
    exact ⟨fun _ => next, by simp_all [busyBit], by simp_all [busyBit]⟩
  · rw [e] at next
    exact ⟨by simp_all [busyBit], fun _ _ => next, by simp_all [dataReadyBit]⟩
  · rw [e] at next
    exact ⟨by simp_all [busyBit], by simp_all [dataReadyBit], fun _ _ => next⟩

/-- Settles O32: the FIFO read is followed by one of the drainer's three cases. -/
theorem drainStoresOrDiscards : Obligations.DrainStoresOrDiscards := by
  intro s d hf hd legal hr w t
  have reg : datapath (readFifo (beginStep s)) = d := datapath_of_some hd
  have next := step_of_drain hr hf legal
  have outcome := storeOrDiscard_cases w (readFifo (beginStep s))
  rw [reg, ← Bool.not_eq_true, wordFits_iff] at outcome
  rcases outcome with ⟨-, fits, sink, e⟩ | ⟨-, fits, sink, e⟩ | ⟨-, full, e⟩
  · rw [e] at next
    exact ⟨fun _ _ => by rw [next, ← reg]; rfl, by simp [sink], fun h => absurd fits h.not_gt⟩
  · rw [e] at next
    exact ⟨by simp [sink], fun _ _ => by rw [next, ← reg]; rfl, fun h => absurd fits h.not_gt⟩
  · rw [e] at next
    exact ⟨fun h => absurd h full, fun h => absurd h full, fun _ => next⟩

/-- Settles O33: the step of RESP depends on `resp_ready` alone. -/
theorem respHoldsUntilTaken : Obligations.RespHoldsUntilTaken := by
  intro s hf hr
  refine ⟨by simp [State.respValid, hf], by simp [State.reqReady, hf], fun ready => ?_, fun notReady => ?_⟩
  · rw [step_of_resp hr hf, ready]; rfl
  · rw [step_of_resp hr hf, notReady]; rfl

/-- A step of POLL or DRAIN without `rst` stays in them, or it reads a status with busy clear. -/
theorem step_fsm_of_polling (hr : (sampleInputs s).rst = false) (h : step s = .next t)
    (hf : s.fsm = .poll ∨ s.fsm = .drain) :
    t.fsm = .poll ∨ t.fsm = .drain ∨
      (s.fsm = .poll ∧ busyBit (statusWord (beginStep s)) = false ∧ t.fsm = .resp) := by
  cases step_cases h with
  | poll _ fsm _ next =>
    rcases pollBranch_cases (statusWord (beginStep s)) (readControl (beginStep s)) with
      ⟨idle, e⟩ | ⟨_, _, e⟩ | ⟨_, _, e⟩
    · exact .inr (.inr ⟨fsm, idle, by rw [next, e, respond_fsm]⟩)
    · exact .inr (.inl (by rw [next, e, setFsm_fsm]))
    · exact .inl (by rw [next, e, setFsm_fsm])
  | drain _ _ _ next => exact .inl (by rw [next, setFsm_fsm])
  | _ => simp_all

/-- Settles O34: `rst` is tested before the FSM state. -/
theorem rstWinsInEveryState : Obligations.RstWinsInEveryState :=
  ⟨fun _ hr => step_of_rst hr, fun _ _ hr h hf => step_fsm_of_polling hr h hf⟩

/-- Of the host's inputs the block's own transition reads `rst` and `resp_ready`. -/
theorem busyStep_congr {inp inp' : HostInputs} (hr : inp.rst = inp'.rst) (hy : inp.respReady = inp'.respReady) :
    busyStep inp s = busyStep inp' s := by
  rw [busyStep, busyStep, hr, hy]

/-- Outside IDLE the step is the block's own transition. -/
theorem step_eq_busyStep (hf : s.fsm ≠ .idle) : step s = busyStep (sampleInputs s) (beginStep s) := by
  simp [step, offered, hf]

/-- Settles O37: both offers are used up, and the transition reads neither. -/
theorem busyBlockIgnoresOfferedRequests : Obligations.BusyBlockIgnoresOfferedRequests := by
  intro s inp inp' q c hf hr hy
  have own (inp : HostInputs) := step_eq_busyStep (s := { s with host := ⟨inp :: q, c⟩ }) hf
  exact ⟨by simp [State.reqReady, hf], (own inp).trans ((busyStep_congr hr hy).trans (own inp').symm)⟩

/-! ### The end of a transaction (R155) and its Control write (R160) -/

/-- Settles O40: of a transaction's steps only a poll's branch on busy clear answers. -/
theorem transactionEndsOnlyWithSuccess : Obligations.TransactionEndsOnlyWithSuccess := by
  intro s t busy h
  cases step_cases h with
  | reset rst next => simp [rst, next]
  | wrCmd _ fsm _ next => simp [fsm, next]
  | wrCtrl _ fsm _ next => simp [fsm, next]
  | poll rst fsm _ next =>
    rcases pollBranch_cases (statusWord (beginStep s)) (readControl (beginStep s)) with
      ⟨idle, e⟩ | ⟨busy, _, e⟩ | ⟨busy, _, e⟩
    · simp [rst, fsm, next, idle, e, statusOk]
    · simp [next, busy, e]
    · simp [next, busy, e]
  | drain _ fsm _ next => simp [fsm, next]
  | _ => simp_all [inTransaction]

/-- The transport writes the encoder's bits below RESET_HIGH as they are. -/
theorem controlValue_extract {k n : Nat} (cw : Word) (h : k + n ≤ 29) :
    (controlValue cw).extractLsb' k n = cw.extractLsb' k n := by
  apply BitVec.eq_of_getLsbD_eq
  intro i hi
  have clear : startBits = fieldAt 29 5#3 := by decide
  simp [controlValue, clear, fieldAt_getLsbD, show ¬ 29 ≤ k + i by omega]

/-- A 4-byte write is the Control write of WR_CTRL (R143). -/
theorem write4_of_step {a : Nat} {v : Word} (h : step s = .next t) (hw : t.busOut = some (.write4 a v)) :
    s.fsm = .wrCtrl ∧ a = s.params.ctrlAddr ∧ v = (datapath (beginStep s)).ctrl := by
  obtain ⟨-, access, -⟩ := stepMakesItsOneAccess s t h
  simpa using access _ hw

/-- Settles O56: the value written is the Control value of the transaction's flags, which `start` latched. -/
theorem everyControlWriteIsLawful : Obligations.EveryControlWriteIsLawful := by
  intro s t a v hi h hw
  obtain ⟨hf, ha, hv⟩ := write4_of_step h hw
  obtain ⟨d, hd⟩ := Option.isSome_iff_exists.1 (hi.datapath_present (by simp [hf, inTransaction]))
  obtain ⟨f, cw, he, hctrl, hlen, -⟩ := (hi.datapath_ok d hd).started
  obtain rfl : v = controlValue cw := by rw [hv, datapath_of_some (s := beginStep s) hd, hctrl]
  obtain ⟨bit31, bit30, bit29, bit28, -, -, bit23, -, -, bit15, -⟩ := controlValueFields f cw he
  exact ⟨ha, bit31, bit29, bit30, bit28, bit23, bit15, d, f, cw, hd, hlen, he,
    controlValue_extract cw (by decide), controlValue_extract cw (by decide), controlValue_extract cw (by decide),
    controlValue_extract cw (by decide)⟩

end Sys2Proof.Machine

/-! The statements on runs of a transaction: polling that never ends, the steps a scripted controller leads through, and
what the words it returns leave in the buffer. -/

namespace Sys2Proof.Machine

variable {s t u : State} {n m k j : Nat} {S D : Nat → Option Word} {d : Datapath}

/-! ### Premises over a run, at its first step -/

theorem NoReset.rst (h : NoReset (n + 1) s) : (sampleInputs s).rst = false :=
  h 0 (by omega) s (run_zero s)

theorem BusyNeverClears.next (h : BusyNeverClears s) (ht : step s = .next t) : BusyNeverClears t :=
  fun k u hu => h (k + 1) u ((run_succ k ht).trans hu)

/-! ### Polling that never ends (R156) -/

/-- No step changes the parameters (R235). -/
theorem step_params (h : step s = .next t) : t.params = s.params := by
  cases step_cases h with
  | request _ _ _ _ _ next =>
    obtain ⟨-, -, -, -, params⟩ := (exec_cases next).frame
    exact params
  | poll _ _ _ next =>
    rcases pollBranch_cases (statusWord (beginStep s)) (readControl (beginStep s)) with
      ⟨_, e⟩ | ⟨_, _, e⟩ | ⟨_, _, e⟩ <;> simp [next, e]
  | drain _ _ _ next => simp [next, storeOrDiscard_frame]
  | _ => simp_all

/-- A step of a transaction that does not end it leaves `status_q` and `cw_q` as they were (R28). -/
theorem step_status (h : step s = .next t) (hr : (sampleInputs s).rst = false) (hs : inTransaction s.fsm = true)
    (ht : t.fsm ≠ .resp) : t.statusQ = s.statusQ ∧ t.cwQ = s.cwQ := by
  cases step_cases h with
  | poll _ _ _ next =>
    rcases pollBranch_cases (statusWord (beginStep s)) (readControl (beginStep s)) with
      ⟨_, e⟩ | ⟨_, _, e⟩ | ⟨_, _, e⟩
    · exact absurd (by rw [next, e, respond_fsm]) ht
    · simp [next, e]
    · simp [next, e]
  | drain _ _ _ next => simp [next, storeOrDiscard_frame]
  | _ => simp_all [inTransaction]

/-- POLL and DRAIN make a step under a legal configuration. -/
theorem exists_step_of_polling (hr : (sampleInputs s).rst = false) (legal : paramsLegal s.params = true)
    (hf : s.fsm = .poll ∨ s.fsm = .drain) : ∃ t, step s = .next t := by
  rcases hf with hf | hf
  · exact ⟨_, step_of_poll hr hf legal⟩
  · exact ⟨_, step_of_drain hr hf legal⟩

/-- While no status read shows busy clear, the block polls on. -/
theorem run_of_busyNeverClears (hf : s.fsm = .poll ∨ s.fsm = .drain) (legal : paramsLegal s.params = true)
    (hr : NoReset n s) (busy : BusyNeverClears s) :
    ∃ t, core.run n s = .next t ∧ (t.fsm = .poll ∨ t.fsm = .drain) ∧ t.statusQ = s.statusQ ∧ t.cwQ = s.cwQ := by
  induction n generalizing s with
  | zero => exact ⟨s, run_zero s, hf, rfl, rfl⟩
  | succ n ih =>
    obtain ⟨u, hu⟩ := exists_step_of_polling hr.rst legal hf
    have polling : u.fsm = .poll ∨ u.fsm = .drain := by
      rcases step_fsm_of_polling hr.rst hu hf with poll | drain | ⟨poll, clear, -⟩
      · exact .inl poll
      · exact .inr drain
      · simp [busy 0 s (run_zero s) poll] at clear
    obtain ⟨status, cw⟩ := step_status hu hr.rst
      (by rcases hf with hf | hf <;> simp [hf, inTransaction]) (by rcases polling with h | h <;> simp [h])
    obtain ⟨t, ht, fsm, status', cw'⟩ := ih polling (step_params hu ▸ legal)
      ((Nat.add_comm n 1 ▸ hr).shift (run_succ 0 hu)) (busy.next hu)
    exact ⟨t, (run_succ n hu).trans ht, fsm, status'.trans status, cw'.trans cw⟩

/-- Settles O60: by induction on the steps; a script with busy set in every word answers each status read so. -/
theorem hangNeverEnds : Obligations.HangNeverEnds := by
  constructor
  · intro s hf legal hr busy n
    obtain ⟨t, ht, fsm, kept⟩ := run_of_busyNeverClears hf legal (hr n) busy
    exact ⟨t, ht, fsm, by rcases fsm with h | h <;> simp [State.respValid, h], kept⟩
  · intro s S D busy script k t ht hf
    obtain ⟨status, -⟩ := script (k + 1) k (Nat.lt_succ_self k) t ht
    rw [status hf _ rfl]
    exact busy _

/-! ### A scripted run (R43) -/

/-- The premises on the controller and the host in the first `n` steps from `s`. -/
structure Scripted (n : Nat) (s : State) (S D : Nat → Option Word) : Prop where
  noReset : NoReset n s
  controller : ScriptedController n s S D

theorem Scripted.shift (h : Scripted (n + m) s S D) (ht : core.run n s = .next t) : Scripted m t S D :=
  ⟨h.noReset.shift ht, h.controller.shift ht⟩

/-- The premises on a part of the run. -/
theorem Scripted.mono (h : Scripted m s S D) (hn : n ≤ m) : Scripted n s S D :=
  ⟨fun k hk => h.noReset k (hk.trans_le hn), fun k hk => h.controller k (hk.trans_le hn)⟩

theorem Scripted.rst (h : Scripted n s S D) (hn : 0 < n) : (sampleInputs s).rst = false :=
  h.noReset 0 hn s (run_zero s)

theorem Scripted.statusWord {w : Word} (h : Scripted n s S D) (hn : 0 < n) (hf : s.fsm = .poll)
    (hw : S s.statusReads = some w) : statusWord (beginStep s) = w :=
  (h.controller 0 hn s (run_zero s)).1 hf w hw

theorem Scripted.fifoWord {w : Word} (h : Scripted n s S D) (hn : 0 < n) (hf : s.fsm = .drain)
    (hw : D s.fifoReads = some w) : fifoWord (beginStep s) = w :=
  (h.controller 0 hn s (run_zero s)).2 hf w hw

/-- The sequence `S` goes on with the words `ws` from its `k`-th on. -/
def Plays (S : Nat → Option Word) (k : Nat) : List Word → Prop
  | [] => True
  | w :: ws => S k = some w ∧ Plays S (k + 1) ws

/-- A finite script goes on with its words after the ones already read. -/
theorem plays_finiteScript (read ws rest : List Word) : Plays (finiteScript (read ++ (ws ++ rest))) read.length ws := by
  induction ws generalizing read with
  | nil => trivial
  | cons w ws ih => exact ⟨by simp, by simpa using ih (read ++ [w])⟩

/-! ### Stretches of a transaction -/

@[simp] theorem busAccesses_append (es es' : List Event) : busAccesses (es ++ es') = busAccesses es ++ busAccesses es' :=
  List.filterMap_append

@[simp] theorem bufWrites_append (es es' : List Event) : bufWrites (es ++ es') = bufWrites es ++ bufWrites es' :=
  List.filterMap_append

@[simp] theorem busAccesses_bus (a : BusAccess) : busAccesses [.bus a] = [a] := rfl
@[simp] theorem bufWrites_bus (a : BusAccess) : bufWrites [.bus a] = [] := rfl

@[simp] theorem busAccesses_map_bus (as : List BusAccess) : busAccesses (as.map .bus) = as := by
  simp [busAccesses, List.filterMap_map]

@[simp] theorem busAccesses_map_buf (os : List BufWrite) : busAccesses (os.map .buf) = [] := by
  simp [busAccesses, List.filterMap_map]

@[simp] theorem bufWrites_map_bus (as : List BusAccess) : bufWrites (as.map .bus) = [] := by
  simp [bufWrites, List.filterMap_map]

@[simp] theorem bufWrites_map_buf (os : List BufWrite) : bufWrites (os.map .buf) = os := by
  simp [bufWrites, List.filterMap_map]

/-- `n` steps lead from `s` to `t` with the accesses `as` and the buffer writes `os`, and the transaction goes on:
`status_q` and `cw_q` are as they were. -/
structure Stretch (n : Nat) (as : List BusAccess) (os : List BufWrite) (s t : State) : Prop where
  run : core.run n s = .next t
  params : t.params = s.params
  statusQ : t.statusQ = s.statusQ
  cwQ : t.cwQ = s.cwQ
  accesses : busAccesses t.trace = busAccesses s.trace ++ as
  writes : bufWrites t.trace = bufWrites s.trace ++ os

variable {as as' : List BusAccess} {os os' : List BufWrite}

theorem Stretch.refl (s : State) : Stretch 0 [] [] s s := ⟨rfl, rfl, rfl, rfl, by simp, by simp⟩

theorem Stretch.trans (h : Stretch n as os s t) (h' : Stretch m as' os' t u) :
    Stretch (n + m) (as ++ as') (os ++ os') s u where
  run := (run_add m h.run).trans h'.run
  params := h'.params.trans h.params
  statusQ := h'.statusQ.trans h.statusQ
  cwQ := h'.cwQ.trans h.cwQ
  accesses := by rw [h'.accesses, h.accesses, List.append_assoc]
  writes := by rw [h'.writes, h.writes, List.append_assoc]

/-- A step that does not end the transaction is a stretch with what its ports show. -/
theorem Stretch.of_step (h : step s = .next t) (hr : (sampleInputs s).rst = false) (hs : inTransaction s.fsm = true)
    (ht : t.fsm ≠ .resp) (bus : t.busOut.toList = as) (buf : t.bufOut.toList = os) : Stretch 1 as os s t where
  run := run_succ 0 h
  params := step_params h
  statusQ := (step_status h hr hs ht).1
  cwQ := (step_status h hr hs ht).2
  accesses := by simp [step_trace h, bus]
  writes := by simp [step_trace h, buf]

/-- The transaction stands in the FSM state `x` with the registers `d`, after `k` Control reads and `j` FIFO reads. -/
structure Stands (x : Fsm) (d : Datapath) (k j : Nat) (s : State) : Prop where
  fsm : s.fsm = x
  dp : s.dp = some d
  legal : paramsLegal s.params = true
  statusReads : s.statusReads = k
  fifoReads : s.fifoReads = j

/-- WR_CMD makes the Command write (R142). -/
theorem Stands.wrCmd (h : Stands .wrCmd d k j s) (hr : (sampleInputs s).rst = false) :
    ∃ t, Stands .wrCtrl d k j t ∧ Stretch 1 [.write8 s.params.cmdAddr d.cmd] [] s t := by
  have next := step_of_wrCmd hr h.fsm h.legal
  rw [datapath_of_some (s := beginStep s) h.dp] at next
  exact ⟨setFsm .wrCtrl (writeCommand d.cmd (beginStep s)), ⟨rfl, h.dp, h.legal, h.statusReads, h.fifoReads⟩,
    .of_step next hr (by simp [h.fsm, inTransaction]) (by simp) rfl rfl⟩

/-- WR_CTRL makes the Control write (R143). -/
theorem Stands.wrCtrl (h : Stands .wrCtrl d k j s) (hr : (sampleInputs s).rst = false) :
    ∃ t, Stands .poll d k j t ∧ Stretch 1 [.write4 s.params.ctrlAddr d.ctrl] [] s t := by
  have next := step_of_wrCtrl hr h.fsm h.legal
  rw [datapath_of_some (s := beginStep s) h.dp] at next
  exact ⟨setFsm .poll (writeControl d.ctrl (beginStep s)), ⟨rfl, h.dp, h.legal, h.statusReads, h.fifoReads⟩,
    .of_step next hr (by simp [h.fsm, inTransaction]) (by simp) rfl rfl⟩

theorem pollBranch_of_busy {w : Word} (busy : busyBit w = true) (s : State) :
    pollBranch w s = setFsm (if dataReadyBit w then .drain else .poll) s := by
  rw [pollBranch, if_pos busy, apply_ite (setFsm · s)]

/-- A poll that shows busy set goes on to the FIFO or polls again (R144). -/
theorem Stands.poll {w : Word} (h : Stands .poll d k j s) (hr : (sampleInputs s).rst = false)
    (hw : statusWord (beginStep s) = w) (busy : busyBit w = true) :
    ∃ t, Stands (if dataReadyBit w then .drain else .poll) d (k + 1) j t ∧
      Stretch 1 [.read4 s.params.ctrlAddr w] [] s t := by
  have next := step_of_poll hr h.fsm h.legal
  rw [hw, pollBranch_of_busy busy] at next
  exact ⟨setFsm (if dataReadyBit w then .drain else .poll) (readControl (beginStep s)),
    ⟨rfl, h.dp, h.legal, congrArg (· + 1) h.statusReads, h.fifoReads⟩,
    .of_step next hr (by simp [h.fsm, inTransaction]) (by cases dataReadyBit w <;> simp) (by simp [hw]) rfl⟩

/-! ### The words of a transaction (R146, R157) -/

/-- The registers after a DRAIN step: a word that fits moves the cursor. -/
def countWord (d : Datapath) : Datapath :=
  if wordFits d then { d with cursor := d.cursor + 4#15 } else d

/-- The buffer writes of a DRAIN step that reads `w`. -/
def wordWrite (d : Datapath) (w : Word) : List BufWrite :=
  if wordFits d && d.sink == .caller then [⟨d.cursor, w⟩] else []

theorem countWord_ctrl (d : Datapath) : (countWord d).ctrl = d.ctrl := by
  rw [countWord, apply_ite Datapath.ctrl, ite_self]

theorem iterate_countWord_ctrl (n : Nat) (d : Datapath) : (countWord^[n] d).ctrl = d.ctrl := by
  induction n generalizing d with
  | zero => rfl
  | succ n ih => rw [Function.iterate_succ_apply, ih, countWord_ctrl]

theorem storeOrDiscard_dp_countWord (w : Word) (hd : s.dp = some d) :
    (storeOrDiscard w s).dp = some (countWord d) := by
  have reg := datapath_of_some hd
  rcases storeOrDiscard_cases w s with ⟨-, fits, -, e⟩ | ⟨-, fits, -, e⟩ | ⟨-, fits, e⟩ <;> rw [reg] at fits
  · simp [e, countWord, fits, reg, datapath_of_some (s := bufWrite _ w s) hd]
  · simp [e, countWord, fits, reg]
  · simp [e, countWord, fits, hd]

theorem storeOrDiscard_bufOut_wordWrite (w : Word) (hd : s.dp = some d) (hb : s.bufOut = none) :
    (storeOrDiscard w s).bufOut.toList = wordWrite d w := by
  rw [← datapath_of_some hd]
  rcases storeOrDiscard_cases w s with ⟨-, fits, sink, e⟩ | ⟨-, fits, sink, e⟩ | ⟨-, fits, e⟩
  · simp [e, wordWrite, fits, sink]
  · simp [e, wordWrite, fits, sink, hb]
  · simp [e, wordWrite, fits, hb]

/-- DRAIN reads a FIFO word, counts it and stores it for the caller (R145, R146). -/
theorem Stands.drain {w : Word} (h : Stands .drain d k j s) (hr : (sampleInputs s).rst = false)
    (hw : fifoWord (beginStep s) = w) :
    ∃ t, Stands .poll (countWord d) k (j + 1) t ∧ Stretch 1 [.read4 s.params.dataAddr w] (wordWrite d w) s t := by
  have next := step_of_drain hr h.fsm h.legal
  rw [hw] at next
  obtain ⟨-, -, -, bus, params, -, -, -, statusReads, fifoReads, -⟩ := storeOrDiscard_frame w (readFifo (beginStep s))
  refine ⟨setFsm .poll (storeOrDiscard w (readFifo (beginStep s))),
    ⟨rfl, storeOrDiscard_dp_countWord w h.dp, ?_, ?_, ?_⟩, .of_step next hr (by simp [h.fsm, inTransaction]) (by simp) ?_
      (storeOrDiscard_bufOut_wordWrite w h.dp rfl)⟩
  · simp [params, h.legal]
  · simp [statusReads, h.statusReads]
  · simp [fifoReads, h.fifoReads]
  · simp [bus, hw]

/-- The buffer writes of DRAIN steps that read the words `ws` one after another. -/
def storedWrites (d : Datapath) : List Word → List BufWrite
  | [] => []
  | w :: ws => wordWrite d w ++ storedWrites (countWord d) ws

@[simp] theorem roundWords_wait (w : Word) (rs : List Round) : roundWords (.wait w :: rs) = roundWords rs := rfl
@[simp] theorem roundWords_word (w v : Word) (rs : List Round) :
    roundWords (.word w v :: rs) = v :: roundWords rs := rfl

/-- A round without a word is one poll. -/
theorem roundSteps_wait (w : Word) (rs : List Round) : roundSteps (.wait w :: rs) = 1 + roundSteps rs := by
  simp only [roundSteps, roundWords_wait, List.length_cons]
  omega

/-- A round with a word is one poll and one drain. -/
theorem roundSteps_word (w v : Word) (rs : List Round) :
    roundSteps (.word w v :: rs) = 1 + (1 + roundSteps rs) := by
  simp only [roundSteps, roundWords_word, List.length_cons]
  omega

/-- Poll rounds of a scripted controller lead from POLL to POLL with the accesses of the rounds, and their words are
counted and stored (R43, R152). -/
theorem Stands.rounds {rs : List Round} (h : Stands .poll d k j s) (hc : Scripted (roundSteps rs) s S D)
    (ok : ∀ x ∈ rs, x.ok = true) (hS : Plays S k (roundStatuses rs)) (hD : Plays D j (roundWords rs)) :
    ∃ t, Stands .poll (countWord^[(roundWords rs).length] d) (k + rs.length) (j + (roundWords rs).length) t ∧
      Stretch (roundSteps rs) (roundAccesses s.params rs) (storedWrites d (roundWords rs)) s t := by
  induction rs generalizing s d k j with
  | nil => exact ⟨s, h, .refl s⟩
  | cons x rs ih =>
    obtain ⟨okx, oks⟩ := List.forall_mem_cons.1 ok
    cases x with
    | wait w =>
      obtain ⟨busy, empty⟩ : busyBit w = true ∧ dataReadyBit w = false := by simpa [Round.ok] using okx
      obtain ⟨status, statuses⟩ := hS
      rw [roundSteps_wait] at hc ⊢
      have shown := hc.statusWord (by omega) h.fsm (h.statusReads ▸ status)
      obtain ⟨u, hu, polled⟩ := h.poll (hc.rst (by omega)) shown busy
      rw [empty] at hu
      obtain ⟨t, ht, rest⟩ := ih hu (hc.shift polled.run) oks statuses hD
      rw [polled.params] at rest
      exact ⟨t, by simpa [Nat.add_assoc, Nat.add_comm 1] using ht, polled.trans rest⟩
    | word w v =>
      obtain ⟨busy, ready⟩ : busyBit w = true ∧ dataReadyBit w = true := by simpa [Round.ok] using okx
      obtain ⟨status, statuses⟩ := hS
      obtain ⟨word, words⟩ := hD
      rw [roundSteps_word] at hc ⊢
      have shown := hc.statusWord (by omega) h.fsm (h.statusReads ▸ status)
      obtain ⟨u, hu, polled⟩ := h.poll (hc.rst (by omega)) shown busy
      rw [ready] at hu
      have hcu := hc.shift polled.run
      have given := hcu.fifoWord (by omega) hu.fsm (hu.fifoReads ▸ word)
      obtain ⟨r, hr, drained⟩ := hu.drain (hcu.rst (by omega)) given
      obtain ⟨t, ht, rest⟩ := ih hr (hcu.shift drained.run) oks statuses words
      rw [drained.params, polled.params] at rest
      rw [polled.params] at drained
      exact ⟨t, by simpa [Nat.add_assoc, Nat.add_comm 1] using ht, polled.trans (drained.trans rest)⟩

/-- From WR_CMD a transaction makes the Command write and the Control write and comes to POLL. -/
theorem Stands.toPoll (h : Stands .wrCmd d k j s) (hc : Scripted 2 s S D) :
    ∃ t, Stands .poll d k j t ∧
      Stretch 2 [.write8 s.params.cmdAddr d.cmd, .write4 s.params.ctrlAddr d.ctrl] [] s t := by
  obtain ⟨u, hu, command⟩ := h.wrCmd (hc.rst (by omega))
  obtain ⟨t, ht, control⟩ := hu.wrCtrl ((hc.shift (m := 1) command.run).rst (by omega))
  rw [command.params] at control
  exact ⟨t, ht, command.trans control⟩

/-- From WR_CMD a transaction makes both writes and the accesses of the rounds (R152). -/
theorem Stands.toPollAfterRounds {rs : List Round} (h : Stands .wrCmd d k j s) (hc : Scripted (2 + roundSteps rs) s S D)
    (ok : ∀ x ∈ rs, x.ok = true) (hS : Plays S k (roundStatuses rs)) (hD : Plays D j (roundWords rs)) :
    ∃ t, Stands .poll (countWord^[(roundWords rs).length] d) (k + rs.length) (j + (roundWords rs).length) t ∧
      Stretch (2 + roundSteps rs)
        ([.write8 s.params.cmdAddr d.cmd, .write4 s.params.ctrlAddr d.ctrl] ++ roundAccesses s.params rs)
        (storedWrites d (roundWords rs)) s t := by
  obtain ⟨u, hu, started⟩ := h.toPoll (hc.mono (by omega))
  obtain ⟨t, ht, polled⟩ := hu.rounds (hc.shift started.run) ok hS hD
  rw [started.params] at polled
  exact ⟨t, ht, started.trans polled⟩

/-- Settles O59: the two writes, then the rounds. -/
theorem unfinishedTransactionMakesAPrefix : Obligations.UnfinishedTransactionMakesAPrefix := by
  intro s d rs hf hd legal hk hj noReset ok controller
  have plays (ws : List Word) : Plays (finiteScript ws) 0 ws := by simpa using plays_finiteScript [] ws []
  obtain ⟨t, ht, made⟩ := Stands.toPollAfterRounds (rs := rs) ⟨hf, hd, legal, hk, hj⟩ ⟨noReset, controller⟩ ok
    (plays _) (plays _)
  exact ⟨t, made.run, ht.fsm, by simp [State.respValid, ht.fsm], made.statusQ, made.cwQ,
    by rw [made.accesses, List.append_assoc]⟩

/-! ### A whole transaction (R152, R155) -/

/-- A poll that shows busy clear ends the transaction with status 0 and `ctrl_q` (R155). -/
theorem Stands.answer {w : Word} (h : Stands .poll d k j s) (hr : (sampleInputs s).rst = false)
    (hw : statusWord (beginStep s) = w) (clear : busyBit w = false) :
    step s = .next (respond statusOk d.ctrl (readControl (beginStep s))) := by
  rw [step_of_poll hr h.fsm h.legal, hw, pollBranch, clear, datapath_readControl,
    datapath_of_some (s := beginStep s) h.dp]
  rfl

/-- The registers that `start` latches (R140). -/
def latched (c : DWord) (cw len : Word) (sink : Sink) : Datapath :=
  ⟨c, controlValue cw, len.extractLsb' 0 15, 0#15, sink⟩

/-- A transaction that starts stands in WR_CMD with nothing read and nothing recorded. -/
theorem exists_stands_of_start {c : DWord} {cw len : Word} {sink : Sink} (legal : paramsLegal s.params = true)
    (starts : step s = start c cw len sink (beginStep s)) :
    ∃ u, step s = .next u ∧ Stands .wrCmd (latched c cw len sink) 0 0 u ∧ u.trace = s.trace ∧ u.params = s.params :=
  ⟨_, starts.trans (start_eq_next.2 ⟨legal, rfl⟩), ⟨rfl, rfl, legal, rfl, rfl⟩, rfl, rfl⟩

/-- Where a request starts a transaction, a scripted controller that answers the rounds `rs` and then busy clear leads
it to RESP with status 0, the access sequence of R152, and the words counted and stored. -/
theorem run_transaction {c : DWord} {cw len last : Word} {sink : Sink} {rs : List Round}
    (legal : paramsLegal s.params = true) (starts : step s = start c cw len sink (beginStep s))
    (hc : Scripted (4 + roundSteps rs) s (finiteScript (roundStatuses rs ++ [last])) (finiteScript (roundWords rs)))
    (ok : ∀ x ∈ rs, x.ok = true) (clear : busyBit last = false) :
    ∃ t, core.run (4 + roundSteps rs) s = .next t ∧ t.fsm = .resp ∧ t.statusQ = statusOk ∧
      t.cwQ = controlValue cw ∧
      busAccesses t.trace = busAccesses s.trace ++
        [.write8 s.params.cmdAddr c, .write4 s.params.ctrlAddr (controlValue cw)] ++
        roundAccesses s.params rs ++ [.read4 s.params.ctrlAddr last] ∧
      bufWrites t.trace = bufWrites s.trace ++ storedWrites (latched c cw len sink) (roundWords rs) ∧
      t.dp = some (countWord^[(roundWords rs).length] (latched c cw len sink)) := by
  obtain ⟨u, hu, standing, trace, params⟩ := exists_stands_of_start legal starts
  rw [show 4 + roundSteps rs = 1 + (2 + roundSteps rs + 1) by omega] at hc ⊢
  have hcu := hc.shift (run_succ 0 hu)
  obtain ⟨v, hv, made⟩ := standing.toPollAfterRounds (hcu.mono (by omega)) ok
    (plays_finiteScript [] (roundStatuses rs) [last]) (by simpa using plays_finiteScript [] (roundWords rs) [])
  have hcv := hcu.shift made.run
  have final : finiteScript (roundStatuses rs ++ [last]) v.statusReads = some last := by
    simp [hv.statusReads, roundStatuses]
  have shown := hcv.statusWord (by omega) hv.fsm final
  have answer := hv.answer (hcv.rst (by omega)) shown clear
  refine ⟨_, (run_add _ (run_succ 0 hu)).trans ((run_add 1 made.run).trans (run_succ 0 answer)),
    rfl, rfl, iterate_countWord_ctrl _ _, ?_, ?_, hv.dp⟩
  · simp [made.accesses, made.params, shown, trace, params, latched]
  · simp [made.writes, trace]

/-! ### What the words leave in the buffer (R68, R146) -/

/-- The memory after the buffer writes `os`, one after another. -/
def storeWrites (m : Memory) (os : List BufWrite) : Memory :=
  os.foldl (fun m o => bufStore m o.off.toNat o.data) m

/-- The buffer holds what the record says was written to it (R215). -/
theorem run_buffer (h : core.run n s = .next t) :
    ∃ os, bufWrites t.trace = bufWrites s.trace ++ os ∧ t.buffer = storeWrites s.buffer os := by
  induction n generalizing s with
  | zero => exact ⟨[], by simp [← next_inj h, storeWrites]⟩
  | succ n ih =>
    obtain ⟨u, hu, hn⟩ := run_succ_eq_next h
    obtain ⟨os, writes, buffer⟩ := ih hn
    refine ⟨u.bufOut.toList ++ os, by simp [writes, step_trace hu], ?_⟩
    rw [buffer, step_buffer hu]
    cases u.bufOut <;> rfl

theorem read_storeWrites_wordWrites_other (m : Memory) {off a : Nat} {ws : List Word}
    (bound : off + 4 * ws.length ≤ 2 ^ 15) (ha : a < off ∨ off + 4 * ws.length ≤ a) :
    (storeWrites m (wordWrites off ws)).read a = m.read a := by
  induction ws generalizing m off with
  | nil => rfl
  | cons w ws ih =>
    rw [List.length_cons] at bound ha
    have fits : off % 2 ^ 15 = off := Nat.mod_eq_of_lt (by omega)
    refine (ih (bufStore m _ w) (by omega) (by omega)).trans (read_bufStore_other m _ w ?_)
    rw [BitVec.toNat_ofNat, fits]
    omega

/-- Words stored one behind another are read back little-endian, each at its own offset. -/
theorem read_storeWrites_wordWrites (m : Memory) {off k : Nat} {w : Word} {ws : List Word}
    (bound : off + 4 * ws.length ≤ 2 ^ 15) (hw : ws[k]? = some w) (hj : j < 4) :
    (storeWrites m (wordWrites off ws)).read (off + 4 * k + j) = some (byteOf w j) := by
  induction ws generalizing m off k with
  | nil => simp at hw
  | cons v ws ih =>
    rw [List.length_cons] at bound
    have fits : off % 2 ^ 15 = off := Nat.mod_eq_of_lt (by omega)
    cases k with
    | zero =>
      obtain rfl : v = w := by simpa using hw
      refine (read_storeWrites_wordWrites_other (bufStore m _ v) (by omega) (by omega)).trans ?_
      rw [BitVec.toNat_ofNat, fits]
      exact read_bufStore m off v hj
    | succ k =>
      rw [show off + 4 * (k + 1) + j = off + 4 + 4 * k + j by omega]
      exact ih (bufStore m _ v) (by omega) hw

/-- Words that still fit the length. -/
def wordsLeft (d : Datapath) : Nat := (d.len.toNat - d.cursor.toNat) / 4

/-- Cursor and length are whole numbers of words. -/
def Aligned (d : Datapath) : Prop := 4 ∣ d.cursor.toNat ∧ 4 ∣ d.len.toNat

/-- A word that fits moves the cursor by 4. -/
theorem countWord_of_fits (ha : Aligned d) (fits : wordFits d = true) :
    Aligned (countWord d) ∧ (countWord d).cursor.toNat = d.cursor.toNat + 4 ∧
      wordsLeft d = wordsLeft (countWord d) + 1 ∧ (countWord d).sink = d.sink := by
  obtain ⟨hc, hl⟩ := ha
  have lt := (wordFits_iff d).1 fits
  have bound := d.len.isLt
  have moved : (d.cursor + 4#15).toNat = d.cursor.toNat + 4 := by
    rw [BitVec.toNat_add, BitVec.toNat_ofNat]
    omega
  simp only [countWord, fits, if_true, Aligned, wordsLeft, moved, and_true, true_and]
  omega

/-- A word that does not fit leaves the registers, and none fits after it. -/
theorem countWord_of_not_fits (fits : ¬ wordFits d = true) : countWord d = d ∧ wordsLeft d = 0 := by
  have ge := (wordFits_iff d).not.1 fits
  exact ⟨if_neg fits, by rw [wordsLeft]; omega⟩

/-- The counting law on the cursor (R157). -/
theorem cursor_iterate_countWord (ha : Aligned d) (n : Nat) :
    (countWord^[n] d).cursor.toNat = d.cursor.toNat + 4 * min n (wordsLeft d) := by
  induction n generalizing d with
  | zero => simp
  | succ n ih =>
    rw [Function.iterate_succ_apply]
    by_cases fits : wordFits d = true
    · obtain ⟨aligned, moved, left, -⟩ := countWord_of_fits ha fits
      rw [ih aligned, moved, left]
      omega
    · obtain ⟨kept, left⟩ := countWord_of_not_fits fits
      rw [kept, ih ha, left]
      omega

/-- A caller's transaction stores the words that fit, one behind another from the cursor on. -/
theorem storedWrites_of_caller (ha : Aligned d) (sink : d.sink = .caller) (ws : List Word) :
    storedWrites d ws = wordWrites d.cursor.toNat (ws.take (wordsLeft d)) := by
  induction ws generalizing d with
  | nil => simp [storedWrites, wordWrites]
  | cons w ws ih =>
    by_cases fits : wordFits d = true
    · obtain ⟨aligned, moved, left, kept⟩ := countWord_of_fits ha fits
      simp [storedWrites, wordWrite, fits, sink, ih aligned (kept.trans sink), moved, left, wordWrites]
    · obtain ⟨kept, left⟩ := countWord_of_not_fits fits
      simp [storedWrites, wordWrite, fits, kept, ih ha sink, left, wordWrites]

/-- A valid length fits `len_q`. -/
theorem toNat_extract_of_validLen {len : Word} (valid : validLen len = true) :
    (len.extractLsb' 0 15).toNat = len.toNat := by
  obtain ⟨-, bound⟩ := toNat_of_validLen valid
  rw [BitVec.extractLsb'_toNat, Nat.shiftRight_zero, Nat.mod_eq_of_lt bound]

/-- A transaction starts aligned, with room for `len/4` words. -/
theorem latched_aligned (c : DWord) (cw : Word) {len : Word} (sink : Sink) (valid : validLen len = true) :
    Aligned (latched c cw len sink) ∧ wordsLeft (latched c cw len sink) = len.toNat / 4 := by
  have whole : 4 ∣ len.toNat := Nat.dvd_of_mod_eq_zero (toNat_of_validLen valid).1
  simp [Aligned, wordsLeft, latched, toNat_extract_of_validLen valid, whole]

/-- A transaction counts up to `len/4` words (R157). -/
theorem cursor_of_latched (c : DWord) (cw : Word) {len : Word} (sink : Sink) (valid : validLen len = true) (n : Nat) :
    (countWord^[n] (latched c cw len sink)).cursor.toNat = 4 * min n (len.toNat / 4) := by
  obtain ⟨aligned, room⟩ := latched_aligned c cw sink valid
  rw [cursor_iterate_countWord aligned, room]
  exact Nat.zero_add _

/-- An EXECUTE stores the first `len/4` words from offset 0 on (R146). -/
theorem storedWrites_of_latched (c : DWord) (cw : Word) {len : Word} (valid : validLen len = true) (ws : List Word) :
    storedWrites (latched c cw len .caller) ws = wordWrites 0 (keptWords (len.extractLsb' 0 15) ws) := by
  obtain ⟨aligned, room⟩ := latched_aligned c cw .caller valid
  rw [storedWrites_of_caller aligned rfl, room, keptWords, toNat_extract_of_validLen valid]
  rfl

theorem length_keptWords {len : Word} (valid : validLen len = true) (ws : List Word) :
    (keptWords (len.extractLsb' 0 15) ws).length = min ws.length (len.toNat / 4) := by
  rw [keptWords, List.length_take, toNat_extract_of_validLen valid, Nat.min_comm]

/-- Settles O57: `run_transaction` with the caller's sink; the record says which words the buffer holds. -/
theorem executeTransactionUnderAScript : Obligations.ExecuteTransactionUnderAScript := by
  intro s l cmd f cw last rs hi legal hv hd he noReset ok clear controller premises
  have hc : Scripted _ s _ _ := ⟨noReset, controller⟩
  have starts : step s = start cmd cw f.len .caller (beginStep s) := by
    rw [step_of_request (hc.rst (by omega)) hi hv, hd]
    exact exec_execute_of_some hi he
  have valid : validLen f.len = true := by rw [← encodeFlags_isSome_eq_validLen, he, Option.isSome_some]
  obtain ⟨t, run, fsm, status, control, accesses, writes, dp⟩ := run_transaction legal starts hc ok clear
  rw [storedWrites_of_latched _ _ valid] at writes
  obtain ⟨os, written, buffer⟩ := run_buffer run
  obtain rfl := List.append_cancel_left (written.symm.trans writes)
  have count := length_keptWords valid (roundWords rs)
  obtain ⟨-, bound⟩ := toNat_of_validLen valid
  have fits : 0 + 4 * (keptWords (f.len.extractLsb' 0 15) (roundWords rs)).length ≤ 2 ^ 15 := by omega
  refine ⟨t, run, fsm, status, control, accesses, writes, fun k w hw j hj => ⟨?_, ?_⟩, fun a ha => ?_, ?_⟩
  · obtain ⟨below, -⟩ := List.getElem?_eq_some_iff.1 hw
    obtain ⟨capacity, -⟩ := premises.capacity
    omega
  · have word := read_storeWrites_wordWrites s.buffer fits hw hj
    rw [Nat.zero_add, ← buffer] at word
    exact word
  · rw [buffer]
    exact read_storeWrites_wordWrites_other s.buffer fits (by omega)
  · rw [dp, Option.map_some, cursor_of_latched _ _ _ valid]

end Sys2Proof.Machine

/-! The statements on the RESET request: its acceptance, that its words never leave the block, and the whole reset
sequence under a script. -/

namespace Sys2Proof.Machine

variable {s : State} {d : Datapath}

/-! ### The acceptance of RESET (R180, R181) -/

/-- RESET with a discard sink starts the reset sequence. -/
theorem exec_reset_of_some {cw : Word} (hi : s.fsm = .idle) (h : encodeFlags (resetFlags s.params) = some cw) :
    exec (.reset true) s = start s.params.resetCmd cw (resetFlags s.params).len .scratch s := by
  rw [exec, execReset, whenIdle_of_idle hi, if_pos rfl, h]

/-- Settles O19: RESET_FLAGS encode, with the code of length 0x2000, and the transaction that RESET starts is not
refused. -/
theorem resetRequestStarts : Obligations.ResetRequestStarts := by
  intro s hi legal
  obtain ⟨cw, h⟩ := exists_encodeFlags_of_validLen (f := resetFlags s.params) rfl
  obtain ⟨-, -, -, -, -, code, -⟩ := encodeBlockSizeLaw _ cw h
  exact ⟨cw, h, code rfl, (exec_reset_of_some hi h).trans (start_eq_next.2 ⟨legal, rfl⟩)⟩

/-- Settles O20: without a sink RESET raises ResourceExhausted. -/
theorem resetRequestNeedsAScratchSink : Obligations.ResetRequestNeedsAScratchSink := by
  intro s hi
  rw [exec, execReset, whenIdle_of_idle hi]
  rfl

/-! ### The scratch sink (R184) -/

/-- With the scratch sink the drainer has no target. -/
theorem drainTarget_of_scratch (hd : s.dp = some d) (sink : d.sink = .scratch) : drainTarget s = none := by
  refine Option.eq_none_iff_forall_ne_some.2 fun off target => ?_
  obtain ⟨-, caller, -⟩ := drainTarget_eq_some.1 target
  simp [datapath_of_some hd, sink] at caller

/-- Settles O45: a step stores only at the drainer's target, its access depends on no sink, and outside IDLE it moves no
datapath register but the cursor. -/
theorem scratchWordsNeverLeaveTheBlock : Obligations.ScratchWordsNeverLeaveTheBlock := by
  intro s t d hd sink h
  have target : drainTarget (beginStep s) = none := drainTarget_of_scratch (s := beginStep s) hd sink
  refine ⟨by simp [step_bufOut h, target], step_buffer_of_not_stored h (.inr (.inr target)), fun hf hr => ?_,
    fun hr hs => ?_⟩
  · rw [step_busOut h, if_neg (by simp [hr])]
    exact accessOf_eq_some.2 (.inr (.inr (.inr ⟨hf, rfl⟩)))
  · have busy : s.fsm ≠ .idle := fun idle => by simp [idle, inTransaction] at hs
    obtain ⟨c, hc, -⟩ := datapathWrittenOnlyAtAcceptance s t d h hd hr (.inl busy)
    exact ⟨_, hc, sink⟩

/-! ### The whole reset sequence (R152, R180, R184) -/

theorem countWord_sink (d : Datapath) : (countWord d).sink = d.sink := by
  rw [countWord, apply_ite Datapath.sink, ite_self]

/-- A discarding transaction stores nothing. -/
theorem storedWrites_of_scratch (sink : d.sink = .scratch) (ws : List Word) : storedWrites d ws = [] := by
  induction ws generalizing d with
  | nil => rfl
  | cons w ws ih => simp [storedWrites, wordWrite, sink, ih ((countWord_sink d).trans sink)]

/-- Settles O58: `run_transaction` with the scratch sink, which records no buffer write, and the buffer holds what the
record says. -/
theorem resetTransactionUnderAScript : Obligations.ResetTransactionUnderAScript := by
  intro s l cw last rs hi legal hv hd he noReset ok clear controller _
  have hc : Scripted _ s _ _ := ⟨noReset, controller⟩
  have starts : step s = start s.params.resetCmd cw (resetFlags s.params).len .scratch (beginStep s) := by
    rw [step_of_request (hc.rst (by omega)) hi hv, hd]
    exact exec_reset_of_some hi he
  obtain ⟨t, run, fsm, status, control, accesses, writes, dp⟩ := run_transaction legal starts hc ok clear
  rw [storedWrites_of_scratch rfl, List.append_nil] at writes
  obtain ⟨os, written, buffer⟩ := run_buffer run
  obtain rfl := List.self_eq_append_right.1 (writes.symm.trans written)
  refine ⟨t, run, fsm, status, control, accesses, writes, buffer, ?_⟩
  have words : (resetFlags s.params).len.toNat / 4 = 0x800 := by simp [resetFlags]
  rw [dp, Option.map_some, cursor_of_latched _ _ _ rfl, words]

end Sys2Proof.Machine

/-! The statements on exceptions: which error an acceptance step raises, and the refusal of an illegal configuration. -/

namespace Sys2Proof

section
variable {r : Request}

theorem Request.op_cases (r : Request) : r.op = 0#2 ∨ r.op = 1#2 ∨ r.op = 2#2 ∨ r.op = 3#2 :=
  (by decide : ∀ b : BitVec 2, b = 0#2 ∨ b = 1#2 ∨ b = 2#2 ∨ b = 3#2) r.op

/-- A port sample carries no well-formed request exactly in the cases (a) to (d) of R201. -/
theorem not_wellFormed_of_decodeRequest_iff : (∀ i, decodeRequest r = .ok i → ¬ i.wellFormed) ↔
    (r.op = 0#2 ∧ Machine.validLen r.len = false) ∨ (r.op = 0#2 ∧ r.cmdLen ≠ 8#32) ∨
      (r.op = 2#2 ∧ Machine.validLen r.len = false) ∨ r.op = 3#2 := by
  rcases r.op_cases with op | op | op | op
  · simp only [decodeRequest_of_op_execute op, Except.ok.injEq, forall_eq', Machine.wellFormed_execute]
    simp [op, Machine.descriptorLength, imp_iff_not_or, or_comm]
  · simp [op, decodeRequest_of_op_reset op, Machine.wellFormed_reset]
  · simp only [decodeRequest_of_op_encode op, Except.ok.injEq, forall_eq', Machine.wellFormed_encode]
    simp [op]
  · simp [op, decodeRequest_of_op_reserved op]

theorem decodeRequest_eq_reset_iff {scratchOk : Bool} :
    decodeRequest r = .ok (.reset scratchOk) ↔ r.op = 1#2 ∧ r.scratchOk = scratchOk := by
  rcases r.op_cases with op | op | op | op
  · simp [op, decodeRequest_of_op_execute op]
  · simp [op, decodeRequest_of_op_reset op]
  · simp [op, decodeRequest_of_op_encode op]
  · simp [op, decodeRequest_of_op_reserved op]

end

end Sys2Proof

namespace Sys2Proof.Machine

variable {s t : State}

/-! ### Which error a request raises (R201, R202) -/

/-- A well-formed request other than RESET without a sink starts a transaction or is answered OK. -/
theorem exec_of_no_error {i : Instr} (hi : s.fsm = .idle) (hw : i.wellFormed) (sink : i ≠ .reset false)
    (h : exec i s = .next t) : t.fsm = .wrCmd ∨ t.statusQ = statusOk := by
  cases i with
  | execute cmd n f =>
    obtain ⟨rfl, valid⟩ := (wellFormed_execute cmd n f).1 hw
    obtain ⟨cw, good⟩ := exists_encodeFlags_of_validLen valid
    obtain ⟨-, rfl⟩ := start_eq_next.1 ((exec_execute_of_some hi good).symm.trans h)
    exact .inl rfl
  | reset scratchOk =>
    obtain rfl : scratchOk = true := by simpa using sink
    obtain ⟨cw, good⟩ := exists_encodeFlags_of_validLen (f := resetFlags s.params) rfl
    obtain ⟨-, rfl⟩ := start_eq_next.1 ((exec_reset_of_some hi good).symm.trans h)
    exact .inl rfl
  | encode f =>
    obtain ⟨cw, good⟩ := exists_encodeFlags_of_validLen ((wellFormed_encode f).1 hw)
    obtain rfl := next_inj ((exec_encode_of_some hi good).symm.trans h)
    exact .inr rfl

/-- When a port sample makes its acceptance raise an error: it carries no well-formed request, or it is RESET without
a sink. -/
def RaisesError (r : Request) : Error → Prop
  | .invalidArgument => ∀ i, decodeRequest r = .ok i → ¬ i.wellFormed
  | .resourceExhausted => decodeRequest r = .ok (.reset false)

theorem errorCode_injective : Function.Injective errorCode := by
  intro e e'
  cases e <;> cases e' <;> simp [errorCode]

theorem errorCode_ne_statusOk (e : Error) : errorCode e ≠ statusOk := by
  cases e <;> decide

section
variable {e : Error} (hi : s.fsm = .idle) (hr : (sampleInputs s).rst = false) (hv : (sampleInputs s).reqValid = true)
include hi hr hv

theorem step_of_decoded {i : Instr} (hd : decodeRequest (sampleInputs s).req = .ok i) :
    step s = exec i (beginStep s) := by
  rw [step_of_request hr hi hv, hd]

/-- A sample that raises an error is answered with it at once, under any configuration. -/
theorem step_of_raisesError (cause : RaisesError (sampleInputs s).req e) : step s = .next (raise e (beginStep s)) := by
  cases e with
  | invalidArgument =>
    cases hd : decodeRequest (sampleInputs s).req with
    | error err =>
      cases err
      rw [step_of_request hr hi hv, hd]
      rfl
    | ok i => exact (step_of_decoded hi hr hv hd).trans (exec_of_illFormed hi (cause i hd))
  | resourceExhausted => exact (step_of_decoded hi hr hv cause).trans (resetRequestNeedsAScratchSink _ hi)

/-- A port sample that raises neither error carries a well-formed request that starts or is answered OK. -/
theorem step_of_no_error (noError : ∀ e, ¬ RaisesError (sampleInputs s).req e) (h : step s = .next t) :
    t.fsm = .wrCmd ∨ t.statusQ = statusOk := by
  obtain ⟨i, hd, good⟩ : ∃ i, decodeRequest (sampleInputs s).req = .ok i ∧ i.wellFormed := by
    simpa [RaisesError] using noError .invalidArgument
  have sink : i ≠ .reset false := fun noSink => noError .resourceExhausted (hd.trans (congrArg _ noSink))
  exact exec_of_no_error (s := beginStep s) hi good sink ((step_of_decoded hi hr hv hd).symm.trans h)

/-- The status of an answer names the error that was raised. -/
theorem raisesError_of_answer (h : step s = .next t) (resp : t.fsm = .resp) (status : t.statusQ = errorCode e) :
    RaisesError (sampleInputs s).req e := by
  by_cases raised : ∃ e', RaisesError (sampleInputs s).req e'
  · obtain ⟨e', cause⟩ := raised
    obtain rfl := next_inj ((step_of_raisesError hi hr hv cause).symm.trans h)
    exact errorCode_injective status ▸ cause
  · rcases step_of_no_error hi hr hv (not_exists.1 raised) h with started | ok
    · simp [resp] at started
    · exact absurd (status.symm.trans ok) (errorCode_ne_statusOk e)

/-- An acceptance step answers with an error exactly when its sample raises it, and then does nothing else. -/
theorem step_answers_error_iff (h : step s = .next t) (e : Error) :
    (t.fsm = .resp ∧ t.statusQ = errorCode e ↔ RaisesError (sampleInputs s).req e) ∧
      (t.fsm = .resp ∧ t.statusQ = errorCode e → t = raise e (beginStep s)) := by
  have raised (cause : RaisesError (sampleInputs s).req e) : t = raise e (beginStep s) :=
    next_inj ((step_of_raisesError hi hr hv cause).symm.trans h)
  have cause (answer : t.fsm = .resp ∧ t.statusQ = errorCode e) : RaisesError (sampleInputs s).req e :=
    raisesError_of_answer hi hr hv h answer.1 answer.2
  exact ⟨⟨cause, fun c => by simp [raised c]⟩, fun answer => raised (cause answer)⟩

end

/-- Settles O38: the sample raises InvalidArgument exactly when it carries no well-formed request. -/
theorem invalidArgumentExactlyInItsCases : Obligations.InvalidArgumentExactlyInItsCases := by
  intro s t hi hr hv h r
  rw [← not_wellFormed_of_decodeRequest_iff]
  exact step_answers_error_iff hi hr hv h .invalidArgument

/-- Settles O39: the sample raises ResourceExhausted exactly when it is RESET without a sink. -/
theorem resourceExhaustedExactlyForResetWithoutSink : Obligations.ResourceExhaustedExactlyForResetWithoutSink := by
  intro s t hi hr hv h r
  rw [← decodeRequest_eq_reset_iff]
  exact step_answers_error_iff hi hr hv h .resourceExhausted

/-! ### An illegal configuration (R218) -/

theorem start_of_illegal (illegal : paramsLegal s.params = false) (c : DWord) (cw len : Word) (k : Sink) :
    start c cw len k s = .refused .illegalConfiguration := requireLegal_of_illegal illegal _

theorem inTransaction_iff {x : Fsm} : inTransaction x = true ↔ x = .wrCmd ∨ x = .wrCtrl ∨ x = .poll ∨ x = .drain := by
  cases x <;> simp [inTransaction]

/-- Settles O51: a transaction is neither started nor continued, and no other step makes an access. -/
theorem illegalConfigurationIsRefused : Obligations.IllegalConfigurationIsRefused := by
  intro s illegal
  have refused : (sampleInputs s).rst = false → inTransaction s.fsm = true → step s = .refused .illegalConfiguration :=
    fun hr hs => step_of_illegal hr illegal (inTransaction_iff.1 hs)
  refine ⟨fun t h => ?_, refused, fun hi cmd f valid => ?_, fun hi => ?_⟩
  · rw [step_busOut h, ite_eq_left_iff, Bool.not_eq_true]
    refine fun hr => accessOf_eq_none.2 (Bool.eq_false_iff.2 fun hs => ?_)
    simp [refused hr hs] at h
  · obtain ⟨cw, good⟩ := exists_encodeFlags_of_validLen valid
    exact (exec_execute_of_some hi good).trans (start_of_illegal illegal ..)
  · obtain ⟨cw, good⟩ := exists_encodeFlags_of_validLen (f := resetFlags s.params) rfl
    exact (exec_reset_of_some hi good).trans (start_of_illegal illegal ..)

end Sys2Proof.Machine

/-! The statements on reset and hazards: what `rst` leaves, the FSM values 6 and 7, and the invariant of the block. -/

namespace Sys2Proof.Machine

variable {s t : State} {p : Params} {d : Datapath} {r : Nat}

/-! ### The invariant's part on the datapath registers (R27, R157) -/

/-- The registers are those that a transaction started with, whose cursor has counted `r` FIFO reads. -/
structure Counted (p : Params) (r : Nat) (d : Datapath) : Prop where
  lawful : DatapathOk p d
  cursor : d.cursor.toNat = 4 * min r (d.len.toNat / 4)

theorem State.Inv.counted (hi : s.Inv) (hd : s.dp = some d) : Counted s.params s.fifoReads d :=
  ⟨hi.datapath_ok d hd, hi.cursor_counts d hd⟩

/-- A cursor that counts in words up to the length lies on a word and within the length. -/
theorem Counted.of_cursor
    (started : ∃ f cw, encodeFlags f = some cw ∧ d.ctrl = controlValue cw ∧ d.len.setWidth 32 = f.len ∧
      (d.sink = .scratch → f = resetFlags p ∧ d.cmd = p.resetCmd))
    (cursor : d.cursor.toNat = 4 * min r (d.len.toNat / 4)) : Counted p r d :=
  ⟨⟨started, by omega, by omega⟩, cursor⟩

theorem validLen_of_encodeFlags {f : OpFlags} {cw : Word} (h : encodeFlags f = some cw) : validLen f.len = true := by
  rw [← encodeFlags_isSome_eq_validLen, h, Option.isSome_some]

/-- A transaction starts with nothing counted. -/
theorem counted_latched {f : OpFlags} {c : DWord} {cw : Word} {sink : Sink} (flags : encodeFlags f = some cw)
    (scratch : sink = .scratch → f = resetFlags p ∧ c = p.resetCmd) : Counted p 0 (latched c cw f.len sink) := by
  have valid := validLen_of_encodeFlags flags
  have len : (f.len.extractLsb' 0 15).setWidth 32 = f.len := by
    apply BitVec.eq_of_toNat_eq
    rw [BitVec.toNat_setWidth_of_le (by decide), toNat_extract_of_validLen valid]
  exact .of_cursor ⟨f, cw, flags, rfl, len, scratch⟩ (cursor_of_latched c cw sink valid 0)

/-- A FIFO word moves no register but the cursor. -/
theorem countWord_eq (d : Datapath) : countWord d = { d with cursor := (countWord d).cursor } := by
  unfold countWord
  split <;> rfl

/-- A FIFO read is counted, up to the length. -/
theorem Counted.read (h : Counted p r d) : Counted p (r + 1) (countWord d) := by
  obtain ⟨lawful, cursor⟩ := h
  have aligned : Aligned d := ⟨Nat.dvd_of_mod_eq_zero lawful.cursor_aligned, lawful.four_dvd_len⟩
  have counted : (countWord d).cursor.toNat = 4 * min (r + 1) (d.len.toNat / 4) := by
    have moved := cursor_iterate_countWord aligned 1
    rw [Function.iterate_one, wordsLeft] at moved
    omega
  rw [countWord_eq]
  exact .of_cursor lawful.started counted

/-- No transaction is longer than the largest valid length (R69, R94). -/
theorem DatapathOk.len_le (h : DatapathOk p d) : d.len.toNat ≤ 0x4000 := by
  have rows : ∀ e ∈ blockSizes, e.1.toNat ≤ 0x4000 := by simp [blockSizes]
  obtain ⟨f, cw, flags, -, len, -⟩ := h.started
  obtain ⟨b, hb, -⟩ := encodeFlags_eq_some.1 flags
  have bound := rows _ (blkSize_eq_some_iff_mem.1 hb)
  rwa [← len, BitVec.toNat_setWidth_of_le (by decide)] at bound

/-- Whatever registers a step leaves have counted the FIFO reads of their request. -/
theorem step_counted (hi : s.Inv) (h : step s = .next t) (hd : t.dp = some d) : Counted t.params t.fifoReads d := by
  have kept (dp : t.dp = s.dp) (reads : t.fifoReads = s.fifoReads) : Counted t.params t.fifoReads d := by
    rw [step_params h, reads]
    exact hi.counted (dp ▸ hd)
  cases step_cases h with
  | reset _ next => simp [next] at hd
  | waiting _ _ _ next => exact kept (by simp [next]) (by simp [next])
  | request _ fsm _ _ _ next =>
    cases exec_cases next with
    | busy busy _ => exact absurd fsm busy
    | answered _ _ _ next _ => exact kept (by simp [next]) (by simp [next])
    | started _ _ _ _ _ _ flags scratch next =>
      subst next
      obtain rfl := Option.some.inj hd
      exact counted_latched flags scratch
  | reserved _ _ _ _ _ next => exact kept (by simp [next]) (by simp [next])
  | wrCmd _ _ _ next => exact kept (by simp [next]) (by simp [next])
  | wrCtrl _ _ _ next => exact kept (by simp [next]) (by simp [next])
  | poll _ _ _ next =>
    refine kept (by simp [next, pollBranch_ports]) ?_
    rcases pollBranch_cases (statusWord (beginStep s)) (readControl (beginStep s)) with
      ⟨_, e⟩ | ⟨_, _, e⟩ | ⟨_, _, e⟩ <;> simp [next, e]
  | drain _ fsm _ next =>
    obtain ⟨d₀, hd₀⟩ := Option.isSome_iff_exists.1 (hi.datapath_present (by simp [fsm, inTransaction]))
    subst next
    rw [setFsm_dp, storeOrDiscard_dp_countWord (s := readFifo (beginStep s)) _ hd₀] at hd
    obtain rfl := Option.some.inj hd
    simpa [storeOrDiscard_frame] using (hi.counted hd₀).read
  | held _ _ _ next => exact kept (by simp [next]) (by simp [next])
  | taken _ _ _ next => exact kept (by simp [next]) (by simp [next])

/-! ### The invariant's part on the FSM (R31, R43, R218, R233) -/

/-- No step goes to FSM value 6 or 7. -/
theorem step_fsm_not_reserved (h : step s = .next t) : t.fsm ≠ .reserved6 ∧ t.fsm ≠ .reserved7 := by
  cases step_cases h with
  | request _ fsm _ _ _ next => cases exec_cases next <;> simp_all
  | poll _ _ _ next =>
    rcases pollBranch_cases (statusWord (beginStep s)) (readControl (beginStep s)) with
      ⟨_, e⟩ | ⟨_, _, e⟩ | ⟨_, _, e⟩ <;> simp [next, e]
  | _ => simp_all

/-- A step to a state of a transaction starts one in IDLE, with registers, or goes on with one; either way the
configuration is legal. -/
theorem step_into_transaction (h : step s = .next t) (ht : inTransaction t.fsm = true) :
    paramsLegal s.params = true ∧ (sampleInputs s).rst = false ∧
      (s.fsm = .idle ∧ t.dp.isSome = true ∨ inTransaction s.fsm = true) := by
  cases step_cases h with
  | request _ fsm _ _ _ next => cases exec_cases next <;> simp_all [inTransaction]
  | _ => simp_all [inTransaction]

/-- Until the first poll no read of the request has been made. -/
theorem step_counts_fresh (hi : s.Inv) (h : step s = .next t) (ht : t.fsm = .wrCmd ∨ t.fsm = .wrCtrl) :
    t.statusReads = 0 ∧ t.fifoReads = 0 := by
  cases step_cases h with
  | request _ fsm _ _ _ next => cases exec_cases next <;> simp_all
  | wrCmd _ fsm _ next => simpa [next] using hi.counts_fresh (.inl fsm)
  | poll _ _ _ next =>
    rcases pollBranch_cases (statusWord (beginStep s)) (readControl (beginStep s)) with
      ⟨_, e⟩ | ⟨_, _, e⟩ | ⟨_, _, e⟩ <;> simp [next, e] at ht
  | _ => simp_all

/-- A transaction holds its registers: IDLE latches them, and no later step clears them. -/
theorem step_datapath_present (hi : s.Inv) (h : step s = .next t) (ht : inTransaction t.fsm = true) :
    t.dp.isSome = true := by
  obtain ⟨-, hr, ⟨-, latched⟩ | going⟩ := step_into_transaction h ht
  · exact latched
  · obtain ⟨d, hd⟩ := Option.isSome_iff_exists.1 (hi.datapath_present going)
    have busy : s.fsm ≠ .idle := fun idle => by simp [idle, inTransaction] at going
    obtain ⟨c, hc, -⟩ := datapathWrittenOnlyAtAcceptance s t d h hd hr (.inl busy)
    rw [hc, Option.isSome_some]

/-! ### The invariant's part on the response (R149, R200) -/

theorem errorCode_ne_three (e : Error) : errorCode e ≠ 3#2 := by
  cases e <;> decide

/-- A step leaves `status_q` and `cw_q`, or sets the status to OK or to an error's code with Control Word 0. -/
theorem step_response (h : step s = .next t) :
    (t.statusQ = s.statusQ ∧ t.cwQ = s.cwQ) ∨ t.statusQ = statusOk ∨
      ∃ e, t.statusQ = errorCode e ∧ t.cwQ = 0#32 := by
  cases step_cases h with
  | reset _ next => exact .inr (.inl (by simp [next, statusOk]))
  | request _ fsm _ _ _ next =>
    cases exec_cases next with
    | busy _ next => exact .inl (by simp [next])
    | answered _ st cw next code =>
      obtain ⟨ok | ⟨e, error⟩, noCw⟩ := code
      · exact .inr (.inl (by simp [next, ok]))
      · exact .inr (.inr ⟨e, by simp [next, error], by simp [next, noCw (error ▸ errorCode_ne_statusOk e)]⟩)
    | started _ _ _ _ _ _ _ _ next => exact .inl (by simp [next])
  | reserved _ _ _ _ _ next => exact .inr (.inr ⟨.invalidArgument, by simp [next]⟩)
  | poll _ _ _ next =>
    rcases pollBranch_cases (statusWord (beginStep s)) (readControl (beginStep s)) with
      ⟨_, e⟩ | ⟨_, _, e⟩ | ⟨_, _, e⟩
    · exact .inr (.inl (by simp [next, e]))
    · exact .inl (by simp [next, e])
    · exact .inl (by simp [next, e])
  | drain _ _ _ next => exact .inl (by simp [next, storeOrDiscard_frame])
  | _ => simp_all

theorem step_status_legal (hi : s.Inv) (h : step s = .next t) :
    t.statusQ ≠ 3#2 ∧ (t.statusQ ≠ statusOk → t.cwQ = 0#32) := by
  rcases step_response h with ⟨status, cw⟩ | ok | ⟨e, error, cw⟩
  · rw [status, cw]
    exact ⟨hi.status_legal, hi.rejected_cw⟩
  · exact ⟨by simp [ok, statusOk], absurd ok⟩
  · exact ⟨error ▸ errorCode_ne_three e, fun _ => cw⟩

/-! ### The invariant's part on the buffer (R69) -/

theorem step_buffer_wf (hi : s.Inv) (h : step s = .next t) : Memory.wf t.buffer := by
  rw [step_buffer h]
  cases t.bufOut with
  | none => exact hi.buffer_wf
  | some o => exact bufStore_wf _ _ hi.buffer_wf

/-- A stored word lies below its transaction's length, which is at most 0x4000. -/
theorem step_buffer_bound (hi : s.Inv) (h : step s = .next t) : ∀ c ∈ t.buffer, c.1 < 0x4000 := by
  intro c hc
  rw [step_buffer h] at hc
  cases port : t.bufOut with
  | none => exact hi.buffer_bound c (by simpa [port] using hc)
  | some o =>
    obtain ⟨fsm, -⟩ := bufferWriteOnlyInAStoringDrain s t h o.off o.data port
    obtain ⟨d, hd⟩ := Option.isSome_iff_exists.1 (hi.datapath_present (by simp [fsm, inTransaction]))
    obtain ⟨-, below, -⟩ := bufferWritesStayBelowTheLength s t d hi hd h o.off o.data port
    have len := (hi.datapath_ok d hd).len_le
    rcases mem_bufStore (by simpa [port] using hc) with ⟨-, stored⟩ | old
    · omega
    · exact hi.buffer_bound c old

/-! ### The invariant and the reserved FSM values -/

/-- Settles O52: each field of the invariant holds after the step by the lemma on it above. -/
theorem everyStepKeepsTheInvariant : Obligations.EveryStepKeepsTheInvariant := fun _ _ hi h => {
  fsm_legal := step_fsm_not_reserved h
  datapath_present := step_datapath_present hi h
  config_legal := fun ht => step_params h ▸ (step_into_transaction h ht).1
  datapath_ok := fun _ hd => (step_counted hi h hd).lawful
  status_legal := (step_status_legal hi h).1
  rejected_cw := (step_status_legal hi h).2
  counts_fresh := step_counts_fresh hi h
  cursor_counts := fun _ hd => (step_counted hi h hd).cursor
  buffer_wf := step_buffer_wf hi h
  buffer_bound := step_buffer_bound hi h }

/-- Settles O36: without `rst` the two values fault, and no step that answers leads to them. -/
theorem reservedFsmValuesFaultAndAreNeverEntered : Obligations.ReservedFsmValuesFaultAndAreNeverEntered :=
  ⟨fun _ => step_of_reserved, fun _ _ => step_fsm_not_reserved⟩

/-! ### When a step does not answer (R218, R233) -/

/-- The steps of a transaction under a legal configuration answer. -/
theorem exists_step_of_transaction (hr : (sampleInputs s).rst = false) (legal : paramsLegal s.params = true)
    (hs : inTransaction s.fsm = true) : ∃ t, step s = .next t := by
  rcases inTransaction_iff.1 hs with fsm | fsm | fsm | fsm
  · exact ⟨_, step_of_wrCmd hr fsm legal⟩
  · exact ⟨_, step_of_wrCtrl hr fsm legal⟩
  · exact exists_step_of_polling hr legal (.inl fsm)
  · exact exists_step_of_polling hr legal (.inr fsm)

/-- IDLE answers, or it refuses to start a transaction under an illegal configuration. -/
theorem step_of_idle (hr : (sampleInputs s).rst = false) (hf : s.fsm = .idle) :
    (∃ t, step s = .next t) ∨ (paramsLegal s.params = false ∧ step s = .refused .illegalConfiguration) := by
  cases hv : (sampleInputs s).reqValid with
  | false => exact .inl ⟨_, step_of_quiet hr hf hv⟩
  | true =>
    rcases step_of_offer (sampleInputs s) s.params hr hv with ⟨c, cw, len, sink, starts⟩ | ⟨st, cw, answers⟩
    · cases legal : paramsLegal s.params with
      | true => exact .inl ⟨_, (starts s hf rfl rfl).trans (start_eq_next.2 ⟨legal, rfl⟩)⟩
      | false => exact .inr ⟨rfl, (starts s hf rfl rfl).trans (start_of_illegal (s := beginStep s) legal ..)⟩
    · exact .inl ⟨_, answers s hf rfl rfl⟩

/-- Under the invariant a step answers, or IDLE refuses to start a transaction. -/
theorem State.Inv.answers_or_refuses (hi : s.Inv) : (∃ t, step s = .next t) ∨
    (s.fsm = .idle ∧ paramsLegal s.params = false ∧ step s = .refused .illegalConfiguration) := by
  cases hr : (sampleInputs s).rst with
  | true => exact .inl ⟨_, step_of_rst hr⟩
  | false =>
    by_cases going : inTransaction s.fsm = true
    · exact .inl (exists_step_of_transaction hr (hi.config_legal going) going)
    cases hf : s.fsm with
    | idle => exact (step_of_idle hr hf).imp_right fun refused => ⟨rfl, refused⟩
    | resp => exact .inl ⟨_, step_of_resp hr hf⟩
    | reserved6 => exact absurd hf hi.fsm_legal.1
    | reserved7 => exact absurd hf hi.fsm_legal.2
    | wrCmd | wrCtrl | poll | drain => simp [hf, inTransaction] at going

/-- Settles O54: such a step does not fault, and its one refusal is that of IDLE. -/
theorem noFaultUnderTheInvariant : Obligations.NoFaultUnderTheInvariant := by
  intro s hi
  rcases hi.answers_or_refuses with ⟨t, next⟩ | ⟨fsm, illegal, refused⟩
  · simp [next]
  · rw [refused]
    exact ⟨by simp, fun r hr => ⟨fsm, illegal, (Host.Outcome.refused.inj hr).symm⟩⟩

/-! ### Reset and the parameters (R230, R235) -/

/-- Settles O35: the step of `rst` is `resetBlock`, which takes the registers and outputs to their reset values. -/
theorem resetStateIsWhatRstLeaves : Obligations.ResetStateIsWhatRstLeaves := by
  refine ⟨fun s t hr h => ?_, rfl, rfl, rfl, rfl, rfl, rfl, rfl, rfl⟩
  obtain rfl := next_inj (step_of_rst hr ▸ h)
  exact ⟨rfl, rfl, rfl, rfl, rfl, rfl, rfl, rfl⟩

/-- Settles O46: the step frame `step_params`. -/
theorem parametersNeverChange : Obligations.ParametersNeverChange := fun _ _ => step_params

end Sys2Proof.Machine
